-- ==== Sys2Proof/Word.lean ====
section
/-! DEFINITION. The words and index types of the block (spec 00_scope.md R8, R9, R10; 20_memory.md R60, R61). -/

namespace Sys2Proof

/-- A word of 32 bits (R10): a command word, a count, a pin number, a program offset. -/
abbrev Word := BitVec 32

/-- A 64-bit quantity (R9, R63): a time or duration in microseconds, or the image of a binary64 value. -/
abbrev Word64 := BitVec 64

/-- A session handle, SID_W = 4 bits (R9, R16). -/
abbrev Sid := BitVec 4

/-- A bank number, 0 or 1 (R8, R23). -/
abbrev Bank := BitVec 1

/-- A channel number within a bank, 0 to 3 (R8, R23). -/
abbrev Chan := BitVec 2

/-- A global index, 0 to 7 (R16, R61). -/
abbrev Slot := BitVec 3

end Sys2Proof
end

