-- ==== Sys2Proof/Config.lean ====
section
/-! DEFINITION. What is fixed for one machine: the parameters of spec 00_scope.md R8 and R9, with their default
values, and the free values the spec leaves to the outside. A `Config` is plain data; a state carries the one it
runs with and no step changes it (notes/assumptions/1.md). -/

namespace Sys2Proof

/-- The parameters the spec leaves open (R9); the ones the source fixes (NBANK, NCHAN, NSLOT) are in the types. -/
structure Config where
  /-- NSESS, the number of session units, 1 to 16 (R9, D6). -/
  nSess : Nat
  /-- CLOCK_RATE, ticks per second (R8, R9, D34). -/
  clockRate : Nat
  /-- US_PER_S, the scale of the period formula (R9, D40). -/
  usPerS : Nat
  /-- The 32-bit image of ERR_EXHAUSTED, INIT's negative error code (R9, D12). -/
  errExhausted : Word
  /-- COLLAB_CLOSED: only the arbiter uses the collaborator (R9, R192). -/
  collabClosed : Bool
  /-- IRQ_ORDER: the order in which the demultiplexer looks for a pending capture when the agenda leaves the
  choice to it (R9, R233). -/
  irqOrder : List Slot
  deriving DecidableEq, Repr

/-- The values this spec takes (R9). -/
def Config.reference : Config where
  nSess := 16
  clockRate := 125000000
  usPerS := 1000000
  errExhausted := 0xFFFFFFFF
  collabClosed := true
  irqOrder := [0, 1, 2, 3, 4, 5, 6, 7]

/-- The ranges R9 and D12, D34 give the open parameters. -/
abbrev Config.wf (c : Config) : Prop :=
  1 ≤ c.nSess ∧ c.nSess ≤ 16 ∧ 0 < c.clockRate ∧ 0 < c.usPerS ∧ c.errExhausted.msb = true ∧
    ∀ i : Slot, i ∈ c.irqOrder

/-- ARM_DIVISOR, the constant of `max_counter = timeout_us · clock_rate / 2,000,000` (R8). -/
def Config.armDivisor : Nat := 2000000

/-- FREE VALUE (notes/assumptions/11.md): what the open collaborator answers to its `n`-th unscripted
`channel_try_reserve` (R192, R193): any number, or none. It has no body, so nothing can be proved of it. -/
opaque Config.freeReserve : Nat → Option Nat

end Sys2Proof
end

