-- ==== Sys2Proof/Syntax.lean ====
section
/-! DEFINITION. The operations of the block as data: one constructor per row of spec/opcode_table.json
(spec 30_encoding.md R90), with the operands of R89. -/

namespace Sys2Proof

/-- The thirteen operations of R90. -/
inductive Instr where
  /-- CONSTRUCT sid, base_pin, timeout_us (R141). -/
  | construct (sid : Sid) (basePin : Word) (timeoutUs : Word64)
  /-- INIT sid (R144). -/
  | init (sid : Sid)
  /-- GETDIR sid (R148). -/
  | getdir (sid : Sid)
  /-- GETPER sid (R149). -/
  | getper (sid : Sid)
  /-- GETBANK sid (R150). -/
  | getbank (sid : Sid)
  /-- ALLOC sid: `allocate` with no preferred bank (R119). -/
  | alloc (sid : Sid)
  /-- ALLOC.P sid, bank: `allocate` with a preferred bank (R119). -/
  | allocP (sid : Sid) (pref : Bank)
  /-- RESOLVE bank, channel (R121). -/
  | resolve (bank : Bank) (chan : Chan)
  /-- BANKUSE bank (R122). -/
  | bankuse (bank : Bank)
  /-- PROGOFF bank (R123). -/
  | progoff (bank : Bank)
  /-- EV_CAPTURE bank, channel, dirword, countword (R94, R170). -/
  | evCapture (bank : Bank) (chan : Chan) (dirword countword : Word)
  /-- EV_WDEXP sid (R94, R175). -/
  | evWdexp (sid : Sid)
  /-- EV_TIME time (R94, R240). -/
  | evTime (time : Word64)
  deriving DecidableEq, Repr

/-- The session handle an operation of format S, SX or A names (R82, R83, R85). -/
def Instr.sid? : Instr → Option Sid
  | .construct sid _ _ => some sid
  | .init sid => some sid
  | .getdir sid => some sid
  | .getper sid => some sid
  | .getbank sid => some sid
  | .alloc sid => some sid
  | .allocP sid _ => some sid
  | .resolve _ _ => none
  | .bankuse _ => none
  | .progoff _ => none
  | .evCapture _ _ _ _ => none
  | .evWdexp sid => some sid
  | .evTime _ => none

end Sys2Proof
end

