-- ==== Sys2Proof/WellFormed.lean ====
section
/-! DEFINITION. The one check the spec puts on an instruction beyond the widths of its operands: "a session handle;
it must be less than NSESS" (spec 30_encoding.md R89, R97). The widths themselves are in the types. -/

namespace Sys2Proof

/-- The handle an instruction names, if any, is the index of a session unit that exists (R89). -/
def wellFormed (cfg : Config) (i : Instr) : Bool :=
  match i.sid? with
  | some sid => decide (sid.toNat < cfg.nSess)
  | none => true

end Sys2Proof
end

