-- ==== Sys2Proof/Decode.lean ====
section
/-! DEFINITION. From words to instructions and back (spec 30_encoding.md R80 to R93). Decoding is total: a word list
gives an instruction and the words after it, an illegal command by name and the words after it, or "incomplete". -/

namespace Sys2Proof

/-! ## Fields of a head word (R81 to R89) -/

/-- `OPC = w[31:28]` (R81). -/
def opcField (w : Word) : BitVec 4 := w.extractLsb' 28 4

/-- `sid = w[27:24]` in formats S, SX and A (R82, R85, R89). -/
def sidField (w : Word) : Sid := w.extractLsb' 24 4

/-- `w[0]`: BANK in format B, PB in format A (R85, R86). -/
def bankField (w : Word) : Bank := w.extractLsb' 0 1

/-- `w[2]`: BANK in formats C and EC (R87, R88). -/
def slotBankField (w : Word) : Bank := w.extractLsb' 2 1

/-- `w[1:0]`: CH in formats C and EC (R87, R88). -/
def chanField (w : Word) : Chan := w.extractLsb' 0 2

/-- A 64-bit operand from its two words, low word first (R63, R89). -/
def join64 (lo hi : Word) : Word64 := hi ++ lo

/-- Bits 31:0 of a 64-bit quantity (R63). -/
def lo64 (x : Word64) : Word := x.extractLsb' 0 32

/-- Bits 63:32 of a 64-bit quantity (R63). -/
def hi64 (x : Word64) : Word := x.extractLsb' 32 32

/-! ## The opcode map (R90) -/

/-- The mnemonics of R90. -/
inductive Mnemonic where
  | CONSTRUCT | INIT | GETDIR | GETPER | GETBANK | ALLOC | ALLOC_P | RESOLVE | BANKUSE | PROGOFF
  | EV_CAPTURE | EV_WDEXP | EV_TIME
  deriving DecidableEq, Repr

/-- One row of R90: a head word `w` selects it when `w AND mask = pat` (`pat` is the row's "match"). -/
structure Row where
  op : Mnemonic
  pat : Word
  mask : Word
  deriving DecidableEq, Repr

/-- The map of R90. -/
def opcodeTable : List Row :=
  [⟨.CONSTRUCT, 0x10000000, 0xF0FFFFFF⟩,
   ⟨.INIT, 0x20000000, 0xF0FFFFFF⟩,
   ⟨.GETDIR, 0x30000000, 0xF0FFFFFF⟩,
   ⟨.GETPER, 0x40000000, 0xF0FFFFFF⟩,
   ⟨.GETBANK, 0x50000000, 0xF0FFFFFF⟩,
   ⟨.ALLOC, 0x80000000, 0xF0FFFFFF⟩,
   ⟨.ALLOC_P, 0x80000002, 0xF0FFFFFE⟩] ++
  [⟨.RESOLVE, 0x90000000, 0xFFFFFFF8⟩,
   ⟨.BANKUSE, 0xA0000000, 0xFFFFFFFE⟩,
   ⟨.PROGOFF, 0xB0000000, 0xFFFFFFFE⟩,
   ⟨.EV_CAPTURE, 0xC0000000, 0xFFFFFFF8⟩,
   ⟨.EV_WDEXP, 0xD0000000, 0xF0FFFFFF⟩,
   ⟨.EV_TIME, 0xE0000000, 0xFFFFFFFF⟩]

/-- "a word `w` selects the row when `w AND mask = match`" (R90). -/
def Row.selects (w : Word) (r : Row) : Bool := w &&& r.mask == r.pat

/-- How many extension words follow a head word, from its bits 31:28 alone (R80). -/
def extensionWords (w : Word) : Nat :=
  if opcField w = 0x1 then 3 else if opcField w = 0xC ∨ opcField w = 0xE then 2 else 0

/-- Word `k + 1` of a command, given its extension words. -/
def extWord (ext : List Word) (k : Nat) : Word := ext.getD k 0

/-- The operation of a row with the operands of R89. -/
def assemble (op : Mnemonic) (w : Word) (ext : List Word) : Instr :=
  match op with
  | .CONSTRUCT => .construct (sidField w) (extWord ext 0) (join64 (extWord ext 1) (extWord ext 2))
  | .INIT => .init (sidField w)
  | .GETDIR => .getdir (sidField w)
  | .GETPER => .getper (sidField w)
  | .GETBANK => .getbank (sidField w)
  | .ALLOC => .alloc (sidField w)
  | .ALLOC_P => .allocP (sidField w) (bankField w)
  | .RESOLVE => .resolve (slotBankField w) (chanField w)
  | .BANKUSE => .bankuse (bankField w)
  | .PROGOFF => .progoff (bankField w)
  | .EV_CAPTURE => .evCapture (slotBankField w) (chanField w) (extWord ext 0) (extWord ext 1)
  | .EV_WDEXP => .evWdexp (sidField w)
  | .EV_TIME => .evTime (join64 (extWord ext 0) (extWord ext 1))

/-- The three kinds of illegal head word (R93). -/
inductive Illegal where
  /-- (a) `OPC` in 0x0, 0x6, 0x7, 0xF. -/
  | reservedOpcode
  /-- (b) a legal `OPC` with a bit set that its format marks "zero". -/
  | reservedBits
  /-- (c) format A with `PV = 0` and `PB = 1`. -/
  | bankWithoutPv
  deriving DecidableEq, Repr

/-- Which of the kinds of R93 a head word that selects no row is. -/
def illegalKind (w : Word) : Illegal :=
  if opcField w = 0x0 ∨ opcField w = 0x6 ∨ opcField w = 0x7 ∨ opcField w = 0xF then .reservedOpcode
  else if w &&& 0xF0FFFFFF = 0x80000001 then .bankWithoutPv
  else .reservedBits

/-- A head word with its extension words, as an instruction or an illegal command (R91). -/
def decodeHead (w : Word) (ext : List Word) : Except Illegal Instr :=
  match opcodeTable.find? (Row.selects w) with
  | some r => .ok (assemble r.op w ext)
  | none => .error (illegalKind w)

/-- What the words at a port hold. -/
inductive Decoded where
  /-- The words of a command are not all there yet (R64, R84). -/
  | incomplete
  /-- An illegal command, its extension words taken and dropped (R84, R93). -/
  | illegal (why : Illegal) (rest : List Word)
  /-- A command. -/
  | command (i : Instr) (rest : List Word)
  deriving DecidableEq, Repr

/-- Read one command from the words at a port (R80, R84, R91): the length comes from the head word alone, the
extension words are data whatever their value. -/
def decode (ws : List Word) : Decoded :=
  match ws with
  | [] => .incomplete
  | w :: more =>
    if more.length < extensionWords w then .incomplete
    else
      match decodeHead w (more.take (extensionWords w)) with
      | .ok i => .command i (more.drop (extensionWords w))
      | .error why => .illegal why (more.drop (extensionWords w))

/-! ## The encoder (R82 to R90, R100) -/

/-- The head word of format S (R82). -/
def headS (opc : BitVec 4) (sid : Sid) : Word := opc ++ sid ++ (0 : BitVec 24)

/-- The head word of format A (R85). -/
def headA (sid : Sid) (pv : BitVec 1) (pb : Bank) : Word := (0x8 : BitVec 4) ++ sid ++ (0 : BitVec 22) ++ pv ++ pb

/-- The head word of format B (R86). -/
def headB (opc : BitVec 4) (bank : Bank) : Word := opc ++ (0 : BitVec 27) ++ bank

/-- The head word of formats C and EC (R87, R88). -/
def headC (opc : BitVec 4) (bank : Bank) (chan : Chan) : Word := opc ++ (0 : BitVec 25) ++ bank ++ chan

/-- The words of an instruction, head word first. -/
def encode : Instr → List Word
  | .construct sid pin t => [headS 0x1 sid, pin, lo64 t, hi64 t]
  | .init sid => [headS 0x2 sid]
  | .getdir sid => [headS 0x3 sid]
  | .getper sid => [headS 0x4 sid]
  | .getbank sid => [headS 0x5 sid]
  | .alloc sid => [headA sid 0 0]
  | .allocP sid b => [headA sid 1 b]
  | .resolve b c => [headC 0x9 b c]
  | .bankuse b => [headB 0xA b]
  | .progoff b => [headB 0xB b]
  | .evCapture b c d r => [headC 0xC b c, d, r]
  | .evWdexp sid => [headS 0xD sid]
  | .evTime t => [0xE0000000, lo64 t, hi64 t]

/-! ## Table words -/

/-- The words of an instruction given as one number, bit 0 the least significant bit of the first word: the lowest
`nbits` bits of `w`, every bit above them 0, cut into as many words as the head word asks for (R80). -/
def tableWords (nbits w : Nat) : List Word :=
  let v := w % 2 ^ nbits
  let head := BitVec.ofNat 32 v
  (List.range (extensionWords head + 1)).map fun k => BitVec.ofNat 32 (v >>> (32 * k))

/-- The instruction the decoder reads from a table word (the host's question). -/
def decodeTableWord (nbits w : Nat) : Option Instr :=
  match decode (tableWords nbits w) with
  | .command i _ => some i
  | .illegal _ _ => none
  | .incomplete => none

end Sys2Proof
end

