-- ==== Sys2Proof/Machine/Float.lean ====
section
/-! DEFINITION. `f64(Q)`: the binary64 value nearest to a non-negative rational, ties to even, as its 64-bit image
(spec 00_scope.md R13, 42_session_events.md R183; notes/assumptions/14.md). -/

namespace Sys2Proof.Machine

/-- `num / den` rounded to the nearest integer, ties to even. -/
def roundHalfEven (num den : Nat) : Nat :=
  let q := num / den
  let r := num % den
  if den < 2 * r ∨ (2 * r = den ∧ q % 2 = 1) then q + 1 else q

/-- The biased exponent, less one, of `num / den`: `E` such that the value lies in
`[2^(E - 1022), 2^(E - 1021))`, or 0 where it lies below the normal range. -/
def f64Exponent (num den : Nat) : Nat :=
  let a := num.log2
  let b := den.log2
  if den * 2 ^ a ≤ num * 2 ^ b then a + 1022 - b else a + 1022 - b - 1

/-- The significand of `num / den` for the exponent `e`, in units of the last place, rounded once. -/
def f64Significand (num den e : Nat) : Nat :=
  roundHalfEven (num * 2 ^ (1074 - e)) (den * 2 ^ (e - 1074))

/-- The image of positive infinity, where a rounded value leaves the format. -/
def f64Infinity : Nat := 0x7FF0000000000000

/-- The image of `f64(num / den)` as a number: a carry out of the significand moves into the exponent by itself. -/
def f64Image (num den : Nat) : Nat :=
  let e := f64Exponent num den
  min (e * 2 ^ 52 + f64Significand num den e) f64Infinity

/-- `bits64(f64(num / den))` (R13). -/
def f64 (num den : Nat) : Word64 :=
  if num = 0 then 0 else BitVec.ofNat 64 (f64Image num den)

end Sys2Proof.Machine
end

