-- ==== Sys2Proof/Machine/State.lean ====
section
/-! DEFINITION. The state of the block and of what it observes, as plain data, its value after reset, and the reasons
a step can stop (spec 10_state.md; 43_collaborator.md; 60_exceptions.md R220 to R225). -/

namespace Sys2Proof.Machine

/-! ## A session unit (10_state.md R23 to R31) -/

/-- The control state of a session unit (R24). -/
inductive Fsm where
  | absent | uninitialized | initialized
  deriving DecidableEq, Repr

/-- The watchdog of a session: idle, or pending with a deadline in microseconds (R31). -/
inductive Watchdog where
  | idle
  | pending (deadline : Word64)
  deriving DecidableEq, Repr

/-- The register file of one session unit (R23). -/
structure Session where
  fsm : Fsm
  basePin : Word
  timeoutUs : Word64
  maxCounter : Word
  /-- `bits64(period_us)`, the register image of R28. -/
  periodUs : Word64
  direction : Bool
  bank : Bank
  channel : Chan
  offset : Word
  wd : Watchdog
  deriving DecidableEq, Repr

/-- A session unit after reset (R50). -/
def Session.reset : Session where
  fsm := .absent
  basePin := 0
  timeoutUs := 0
  maxCounter := 0
  periodUs := 0
  direction := false
  bank := 0
  channel := 0
  offset := 0
  wd := .idle

/-! ## The fault register (10_state.md R33, 60_exceptions.md R223) -/

/-- The fatal fault codes (R223). -/
inductive FatalCode where
  | unresolved | range | empty | arbitration
  deriving DecidableEq, Repr

/-- `FAULT`, `{halted[31], code[3:0]}`, other bits 0 (R33). -/
structure FaultReg where
  halted : Bool
  code : BitVec 4
  deriving DecidableEq, Repr

/-- FAULT after reset (R50). -/
def FaultReg.reset : FaultReg where
  halted := false
  code := 0

/-! ## The Timing Channel collaborator (10_state.md R35, 43_collaborator.md) -/

/-- The calls of the COLLAB and PIN ports (R190), a call with an answer carrying the answer. -/
inductive Call where
  | tryReserve (bank : Bank) (answer : Option Nat)
  | canLoad (bank : Bank) (answer : Bool)
  | load (bank : Bank) (answer : Word)
  | configure (bank : Bank) (chan : Chan) (offset pin : Word)
  | enable (bank : Bank) (chan : Chan)
  | clear (bank : Bank) (chan : Chan)
  | enableLines (bank : Bank) (mask : BitVec 4)
  | arm (bank : Bank) (chan : Chan) (count : Word)
  /-- No answer when the channel has no value to give (R200). -/
  | readValue (bank : Bank) (chan : Chan) (answer : Option Word)
  | flagClear (bank : Bank) (chan : Chan)
  /-- In the source's list and never emitted by the block (R202). -/
  | registerHandler (bank : Bank)
  | pinPulldown (pin : Word)
  deriving DecidableEq, Repr

/-- One channel of the collaborator (R35). -/
structure Channel where
  reserved : Bool
  configured : Option (Word × Word)
  enabled : Bool
  armed : Option Word
  /-- The captured values not yet read, oldest first. -/
  fifo : List Word
  irqFlag : Bool
  /-- TIME_US when `irqFlag` was last raised: the model's own field, for R234(c) (notes/assumptions/5.md). -/
  flagTime : Word64
  deriving DecidableEq, Repr

/-- A channel in the collaborator's reset state (R252). -/
def Channel.reset : Channel where
  reserved := false
  configured := none
  enabled := false
  armed := none
  fifo := []
  irqFlag := false
  flagTime := 0

/-- One bank of the collaborator (R35). -/
structure BankEnv where
  resident : Bool
  /-- The answer `program_can_load` would give (R194). -/
  room : Bool
  /-- The answer `program_load` would give (R195, LOADOFF of R208). -/
  loadOff : Word
  lineEn : BitVec 4
  deriving DecidableEq, Repr

/-- The collaborator as the block's environment. -/
structure Collab where
  chans : Vector Channel 8
  banks : Vector BankEnv 2
  /-- The open collaborator's coming answers to `channel_try_reserve`, oldest first (R192): the model's own field. -/
  answers : List (Option Nat)
  /-- How many free values have been drawn: the model's own field (notes/assumptions/11.md). -/
  draws : Nat
  deriving DecidableEq, Repr

/-- A bank in the collaborator's reset state (R252), with the reference environment's `room` and LOADOFF (R208). -/
def BankEnv.reset (loadOff : Word) : BankEnv where
  resident := false
  room := true
  loadOff := loadOff
  lineEn := 0

/-- The collaborator in its reset state (R252), in the reference environment of R208. -/
def Collab.reset : Collab where
  chans := Vector.replicate 8 Channel.reset
  banks := #v[BankEnv.reset 27, BankEnv.reset 11]
  answers := []
  draws := 0

/-! ## Ports, answers and the outside world -/

/-- Where a command comes from (R6, R90, R92). `stimulus` is the test runner's stream of R94. -/
inductive Port where
  | host | arb | stimulus
  deriving DecidableEq, Repr

/-- One response: the port it leaves on, the error flag RERR, and one or two words (R95). -/
structure Response where
  port : Port
  rerr : Bool
  words : List Word
  deriving DecidableEq, Repr

/-- The words received at each port and not yet taken as a command (R50, R64). -/
structure Rx where
  host : List Word
  arb : List Word
  stimulus : List Word
  deriving DecidableEq, Repr

/-- No command in progress (R50). -/
def Rx.reset : Rx where
  host := []
  arb := []
  stimulus := []

/-- What the outside world does next (notes/assumptions/3.md, 4.md). -/
inductive Event where
  /-- Words arrive at a port; the block then takes the oldest complete command there, if there is one. -/
  | port (p : Port) (words : List Word)
  /-- The collaborator captures: two words and a flag (R203); the interrupt is not served yet. -/
  | capture (bank : Bank) (chan : Chan) (dirword countword : Word)
  /-- Out of contract: a flag with nothing pushed (R207(a)). -/
  | strayFlag (bank : Bank) (chan : Chan)
  /-- The environment's answers about loading the program into a bank become these (R194, R195). -/
  | program (bank : Bank) (room : Bool) (loadOff : Word)
  /-- Another user of the collaborator makes a call, in an open system only (R192). -/
  | foreign (call : Call)
  /-- The demultiplexer takes this pending capture (R231, R233). -/
  | serve (bank : Bank) (chan : Chan)
  /-- RESET (R250). -/
  | reset
  deriving DecidableEq, Repr

/-! ## The whole state -/

/-- The state: the block (10_state.md sections 1 to 3), the outside it observes (section 4), and the model's own
record of what comes in and goes out. -/
structure State where
  /-- The configuration this machine runs with; no step changes it (notes/assumptions/1.md). -/
  cfg : Config
  /-- OWNER[0..7] (R20). -/
  owner : Vector (Option Sid) 8
  /-- OFFSET[0..1] (R21). -/
  offset : Vector Word 2
  /-- The session units; those from NSESS on do not exist and stay Absent (R9). -/
  sessions : Vector Session 16
  /-- FAULT (R33). -/
  fault : FaultReg
  /-- The collaborator (R35). -/
  collab : Collab
  /-- TIME_US (R240). -/
  timeUs : Word64
  /-- The port of the operation in progress (R12): the model's own field. -/
  port : Port
  /-- Words received and not yet taken (R50, R64). -/
  rx : Rx
  /-- What the outside world does next, oldest first: the model's own field. -/
  agenda : List Event
  /-- The calls sent since reset, oldest first (R12): the model's own field. -/
  calls : List Call
  /-- The responses given since reset, oldest first (R12): the model's own field. -/
  responses : List Response
  deriving DecidableEq, Repr

/-- The block right after reset (R50), the collaborator in its reset state (R252), the reference configuration and
environment (R9, R208), nothing received and nothing to come. -/
def State.reset : State where
  cfg := Config.reference
  owner := Vector.replicate 8 none
  offset := Vector.replicate 2 0
  sessions := Vector.replicate 16 Session.reset
  fault := FaultReg.reset
  collab := Collab.reset
  timeUs := 0
  port := .host
  rx := Rx.reset
  agenda := []
  calls := []
  responses := []

/-! ## Why a step can stop -/

/-- The faults. -/
inductive Fault where
  /-- Raised by every step the block is asked to take while `FAULT.halted = 1` (R225, R98); `code` is FAULT's code.
  Safe: "the block takes no step". -/
  | halted (code : BitVec 4)
  deriving DecidableEq, Repr

/-- The refusals: what the model gives no meaning. The block's own refusals (R97) are answers, not these. -/
inductive Refusal where
  /-- An instruction that has no meaning yet. Raised by no arm. Safe. -/
  | notModelled (mnemonic : String)
  /-- Raised by EV_WDEXP when that expiry is not enabled and by EV_TIME going backwards: the test program is
  ill-formed and "a runner rejects the program" (R94). Safe. -/
  | stimulusIllFormed
  /-- Raised by the scheduler for an event the outside cannot produce: serving a capture that is not pending or while the
  block waits for the rest of a HOST command (R231, R64), a foreign call in a closed system (R192). Safe. -/
  | notEnabled
  deriving DecidableEq, Repr

end Sys2Proof.Machine
end

