-- ==== Sys2Proof/Machine/Operands.lean ====
section
/-! DEFINITION. The computations on operands: slot numbers, the counts and the period (spec 20_memory.md R61,
42_session_events.md R182), and the words of responses (30_encoding.md R95, R97). -/

namespace Sys2Proof.Machine

/-- `slot(b, c) = b*4 + c` (R61). -/
def slot (b : Bank) (c : Chan) : Slot := b ++ c

/-- `bank(i) = i div 4` (R61). -/
def bankOf (i : Slot) : Bank := i.extractLsb' 2 1

/-- `channel(i) = i mod 4` (R61). -/
def chanOf (i : Slot) : Chan := i.extractLsb' 0 2

/-- `other(b) = 1 - b` (R111). -/
def otherBank (b : Bank) : Bank := ~~~b

/-- The channels of a bank, in ascending order (R111). -/
def allChans : List Chan := [0, 1, 2, 3]

/-- The session handles, in ascending order (R60). -/
def allSids : List Sid := [0, 1, 2, 3, 4, 5, 6, 7, 8, 9, 10, 11, 12, 13, 14, 15]

/-- `(timeout_us * CLOCK_RATE) div 2,000,000` on unbounded numbers (R142, R182(2)). -/
def maxCounterOf (cfg : Config) (timeoutUs : Word64) : Nat :=
  timeoutUs.toNat * cfg.clockRate / Config.armDivisor

/-- The numerator of `Q = (M - r) * 2 * US_PER_S / CLOCK_RATE` (R173, R182(3), R182(4)); used only for `r ≤ M`. -/
def periodNumerator (cfg : Config) (m r : Word) : Nat := (m.toNat - r.toNat) * 2 * cfg.usPerS

/-- `f64(Q)`, the period of a capture with count `r` left of `m` (R173). -/
def periodOf (cfg : Config) (m r : Word) : Word64 := f64 (periodNumerator cfg m r) cfg.clockRate

/-- The second input line, `(base_pin + 1) mod 2^32` (R146, R182(5)). -/
def secondPin (basePin : Word) : Word := basePin + 1

/-- `(TIME_US + timeout_us) mod 2^64` (R236, R182(6)). -/
def deadlineOf (now timeoutUs : Word64) : Word64 := now + timeoutUs

/-- The word that says "none" or "failed" in a response (R95). -/
def noneWord : Word := 0xFFFFFFFF

/-- `zext_32` of a Boolean (R95). -/
def boolWord (b : Bool) : Word := if b then 1 else 0

/-- The mask INIT passes to `bank_enable_interrupt_lines`, all four positions (R8, R144). -/
def allLines : BitVec 4 := 0b1111

/-- The refusal codes (R97). -/
inductive RefuseCode where
  | illegal | port | sid | state | range
  deriving DecidableEq, Repr

/-- The number of a refusal code (R97). -/
def refuseWord : RefuseCode → Word
  | .illegal => 1
  | .port => 2
  | .sid => 3
  | .state => 4
  | .range => 5

/-- The number of a fatal code (R223). -/
def fatalNumber : FatalCode → BitVec 4
  | .unresolved => 1
  | .range => 2
  | .empty => 3
  | .arbitration => 4

end Sys2Proof.Machine
end

