-- ==== Sys2Proof/Machine/Flags.lean ====
section
/-! DEFINITION. The four status flags (spec 10_state.md R34) and the register images the spec gives. -/

namespace Sys2Proof.Machine

/-- `direction = ¬ v1[0]`; bits 31:1 of the direction-bearing word are ignored (R172). -/
def directionOf (v1 : Word) : Bool := !v1.getLsbD 0

/-- The flag "initialized": `fsm = Initialized` (R24, R34). -/
def Session.initialized (u : Session) : Bool := u.fsm == .initialized

/-- The condition "stalled": `period_us = 0`, all 64 bits zero (R34, R183). -/
def Session.stalled (u : Session) : Bool := u.periodUs == 0

/-- The two-bit image of `fsm` (R23). -/
def Fsm.image : Fsm → BitVec 2
  | .absent => 0
  | .uninitialized => 1
  | .initialized => 2

/-- The five-bit image of an OWNER entry, `{valid[4], sid[3:0]}` (R20). -/
def ownerImage : Option Sid → BitVec 5
  | some sid => (1 : BitVec 1) ++ sid
  | none => 0

/-- The 32-bit image of FAULT, `{halted[31], code[3:0]}` (R33). -/
def FaultReg.image (f : FaultReg) : Word := BitVec.ofBool f.halted ++ (0 : BitVec 27) ++ f.code

/-- FAULT after `raise Fatal(code)` (R224). -/
def faultOf (code : FatalCode) : FaultReg where
  halted := true
  code := fatalNumber code

end Sys2Proof.Machine
end

