-- ==== Sys2Proof/Machine/Ops.lean ====
section
/-! DEFINITION. The named operations over the state: reading and writing each register through one accessor, the
collaborator's transition for each call, the pseudocode primitives `emit`, `ask`, `respond`, `refuse`,
`raise Fatal`, `wd_start`, `wd_cancel` (spec 00_scope.md R11, R12; 43_collaborator.md R193 to R206;
60_exceptions.md R224, R225, R236, R237), and RESET (70_reset_and_hazards.md R250). -/

namespace Sys2Proof.Machine

/-! ## Reading (R11) -/

/-- `S[sid]`. -/
def State.session (s : State) (sid : Sid) : Session := s.sessions[sid.toNat]'sid.isLt

/-- `OWNER[i]`. -/
def State.ownerAt (s : State) (i : Slot) : Option Sid := s.owner[i.toNat]'i.isLt

/-- `OFFSET[b]`. -/
def State.offsetAt (s : State) (b : Bank) : Word := s.offset[b.toNat]'b.isLt

/-- Channel `i` of the collaborator. -/
def Collab.chan (k : Collab) (i : Slot) : Channel := k.chans[i.toNat]'i.isLt

/-- Bank `b` of the collaborator. -/
def Collab.bank (k : Collab) (b : Bank) : BankEnv := k.banks[b.toNat]'b.isLt

/-- Channel `i` of the collaborator the block is connected to. -/
def State.chan (s : State) (i : Slot) : Channel := s.collab.chan i

/-- Bank `b` of the collaborator the block is connected to. -/
def State.bankEnv (s : State) (b : Bank) : BankEnv := s.collab.bank b

/-- The words waiting at a port. -/
def State.rxAt (s : State) (p : Port) : List Word :=
  match p with
  | .host => s.rx.host
  | .arb => s.rx.arb
  | .stimulus => s.rx.stimulus

/-! ## Writing (R11) -/

/-- `S[sid] <- u`. -/
def setSession (sid : Sid) (u : Session) (s : State) : State :=
  { s with sessions := s.sessions.set sid.toNat u sid.isLt }

/-- `OWNER[i] <- v`. -/
def setOwner (i : Slot) (v : Option Sid) (s : State) : State :=
  { s with owner := s.owner.set i.toNat v i.isLt }

/-- `OFFSET[b] <- v`. -/
def setOffset (b : Bank) (v : Word) (s : State) : State :=
  { s with offset := s.offset.set b.toNat v b.isLt }

/-- `FAULT <- f`. -/
def setFault (f : FaultReg) (s : State) : State := { s with fault := f }

/-- The collaborator's state becomes `k`. -/
def setCollab (k : Collab) (s : State) : State := { s with collab := k }

/-- `TIME_US <- t` (R240). -/
def setTime (t : Word64) (s : State) : State := { s with timeUs := t }

/-- The operation in progress came on port `p`. -/
def setPort (p : Port) (s : State) : State := { s with port := p }

/-- The words waiting at port `p` become `ws`. -/
def setRx (p : Port) (ws : List Word) (s : State) : State :=
  match p with
  | .host => { s with rx := { s.rx with host := ws } }
  | .arb => { s with rx := { s.rx with arb := ws } }
  | .stimulus => { s with rx := { s.rx with stimulus := ws } }

/-- What the outside does next becomes `ev`. -/
def setAgenda (ev : List Event) (s : State) : State := { s with agenda := ev }

/-- A call is recorded after those already sent. -/
def logCall (c : Call) (s : State) : State := { s with calls := s.calls ++ [c] }

/-- A response is recorded after those already given. -/
def logResponse (r : Response) (s : State) : State := { s with responses := s.responses ++ [r] }

/-- Channel `i` of the collaborator becomes `ch`. -/
def setChan (i : Slot) (ch : Channel) (k : Collab) : Collab :=
  { k with chans := k.chans.set i.toNat ch i.isLt }

/-- Bank `b` of the collaborator becomes `e`. -/
def setBank (b : Bank) (e : BankEnv) (k : Collab) : Collab :=
  { k with banks := k.banks.set b.toNat e b.isLt }

/-! ## The collaborator's transition for each call (43_collaborator.md section 2) -/

/-- The collaborator acts on a call (R193 to R202, R206). -/
def react (c : Call) (k : Collab) : Collab :=
  match c with
  | .tryReserve b (some n) =>
    if n < 4 then
      let i := slot b (BitVec.ofNat 2 n)
      setChan i { k.chan i with reserved := true } k
    else k
  | .tryReserve _ none => k
  | .canLoad _ _ => k
  | .load b _ => setBank b { k.bank b with resident := true } k
  | .configure b c off pin => setChan (slot b c) { k.chan (slot b c) with configured := some (off, pin) } k
  | .enable b c => setChan (slot b c) { k.chan (slot b c) with enabled := true } k
  | .clear b c => setChan (slot b c) { k.chan (slot b c) with fifo := [] } k
  | .enableLines b mask => setBank b { k.bank b with lineEn := (k.bank b).lineEn ||| mask } k
  | .arm b c count => setChan (slot b c) { k.chan (slot b c) with armed := some count } k
  | .readValue b c _ => setChan (slot b c) { k.chan (slot b c) with fifo := (k.chan (slot b c)).fifo.tail } k
  | .flagClear b c => setChan (slot b c) { k.chan (slot b c) with irqFlag := false } k
  | .registerHandler _ => k
  | .pinPulldown _ => k

/-- A capture on channel `i` at time `now`: direction word, then remaining count, disarm, flag (R203). -/
def capture (i : Slot) (dirword countword : Word) (now : Word64) (k : Collab) : Collab :=
  setChan i
    { k.chan i with
      fifo := (k.chan i).fifo ++ [dirword, countword], armed := none, irqFlag := true, flagTime := now } k

/-- A flag raised on channel `i` with nothing pushed, out of contract (R207(a)). -/
def strayFlag (i : Slot) (now : Word64) (k : Collab) : Collab :=
  setChan i { k.chan i with irqFlag := true, flagTime := now } k

/-- The environment's answers about bank `b` become `room` and `loadOff` (R194, R195). -/
def program (b : Bank) (room : Bool) (loadOff : Word) (k : Collab) : Collab :=
  setBank b { k.bank b with room := room, loadOff := loadOff } k

/-- The collaborator in its reset state (R252), the environment's answers kept. -/
def collabReset (k : Collab) : Collab :=
  { k with
    chans := Vector.replicate 8 Channel.reset
    banks := #v[{ k.bank 0 with resident := false, lineEn := 0 }, { k.bank 1 with resident := false, lineEn := 0 }] }

/-! ## `emit` and `ask` (R12, R68) -/

/-- `emit call`: the call leaves the block and the collaborator acts on it before the next is sent. -/
def emit (c : Call) (s : State) : State := setCollab (react c s.collab) (logCall c s)

/-- The closed collaborator's answer to `channel_try_reserve(b)`: the lowest-numbered channel not reserved, none when
all four are (R193). -/
def lowestFree (b : Bank) (k : Collab) : Option Nat :=
  (allChans.find? fun c => !(k.chan (slot b c)).reserved).map BitVec.toNat

/-- The answer `channel_try_reserve(b)` will get: in the closed system the lowest free channel; in the open system the
next scripted answer, and after those a free value (R192, R193; notes/assumptions/11.md). -/
def reserveAnswer (b : Bank) (s : State) : Option Nat :=
  if s.cfg.collabClosed then lowestFree b s.collab
  else
    match s.collab.answers with
    | a :: _ => a
    | [] => Config.freeReserve s.collab.draws

/-- One scripted answer, or one free value, is used up. -/
def useAnswer (s : State) : State :=
  if s.cfg.collabClosed then s
  else
    match s.collab.answers with
    | _ :: more => setCollab { s.collab with answers := more } s
    | [] => setCollab { s.collab with draws := s.collab.draws + 1 } s

/-- `ask channel_try_reserve(b)` (R193). -/
def askReserve (b : Bank) (s : State) : Option Nat × State :=
  (reserveAnswer b s, emit (.tryReserve b (reserveAnswer b s)) (useAnswer s))

/-- `ask program_can_load(b)` (R194). -/
def askCanLoad (b : Bank) (s : State) : Bool × State :=
  ((s.bankEnv b).room, emit (.canLoad b (s.bankEnv b).room) s)

/-- `ask program_load(b)` (R195). -/
def askLoad (b : Bank) (s : State) : Word × State :=
  ((s.bankEnv b).loadOff, emit (.load b (s.bankEnv b).loadOff) s)

/-- `ask channel_read_value(b, c)`: the oldest word, or no answer when there is none (R200). -/
def askRead (b : Bank) (c : Chan) (s : State) : Option Word × State :=
  ((s.chan (slot b c)).fifo.head?, emit (.readValue b c (s.chan (slot b c)).fifo.head?) s)

/-! ## `respond`, `refuse` (R12, R95, R97) -/

/-- `respond(words)`: answer on the port the command came from, the error flag clear. -/
def respond (words : List Word) (s : State) : State := logResponse ⟨s.port, false, words⟩ s

/-- `refuse(code)`: answer one word with the error flag set, and nothing else (R97). -/
def refuse (code : RefuseCode) (s : State) : State := logResponse ⟨s.port, true, [refuseWord code]⟩ s

/-! ## `raise Fatal` and the halted block (R224, R225) -/

/-- `raise Fatal(code)`: FAULT is written and nothing else; the operation ends there and gives no response (R224). -/
def raiseFatal (code : FatalCode) (s : State) : State := setFault (faultOf code) s

/-- "While FAULT.halted = 1 the block takes no step" (R225, R98). -/
def whenRunning (s : State) (k : Host.Outcome State Fault Refusal) : Host.Outcome State Fault Refusal :=
  if s.fault.halted then .fault (.halted s.fault.code) else k

/-! ## The watchdog (R236 to R238) -/

/-- `wd_start(sid)` (R236). -/
def wdStart (sid : Sid) (s : State) : State :=
  setSession sid { s.session sid with wd := .pending (deadlineOf s.timeUs (s.session sid).timeoutUs) } s

/-- `wd_cancel(sid)` (R237). -/
def wdCancel (sid : Sid) (s : State) : State := setSession sid { s.session sid with wd := .idle } s

/-! ## Interrupt lines (R228) -/

/-- Channel `(b, c)` is pending: its flag is set and its line is enabled (R228). -/
def pending (b : Bank) (c : Chan) (s : State) : Bool :=
  (s.chan (slot b c)).irqFlag && (s.bankEnv b).lineEn.getLsbD c.toNat

/-! ## RESET (R250) -/

/-- RESET: every item of the block's state at its reset value, the collaborator in its reset state as R252 requires;
the configuration, the environment's answers, TIME_US and what is still to come are not the block's and stay. The spec
speaks of a partly received command only: that every word waiting at the three ports is dropped, a whole command not
yet taken and the words of the stimulus stream among them, while the agenda stays, is the model's choice
(notes/assumptions/13.md). -/
def resetBlock (s : State) : State :=
  { State.reset with cfg := s.cfg, collab := collabReset s.collab, timeUs := s.timeUs, agenda := s.agenda }

end Sys2Proof.Machine
end

