-- ==== Sys2Proof/Machine/Arbiter.lean ====
section
/-! DEFINITION. The Channel Arbiter: `allocate` and its helpers, and the meanings of ALLOC, ALLOC.P, RESOLVE, BANKUSE
and PROGOFF (spec 40_arbiter.md). -/

namespace Sys2Proof.Machine

/-! ## Definitions used by the operations (R111 to R114) -/

/-- `free(b)`, in ascending order (R111). -/
def freeChans (b : Bank) (s : State) : List Chan := allChans.filter fun c => (s.ownerAt (slot b c)).isNone

/-- `bank_in_use(b)`: at least one slot of the bank is owned (R112). -/
def bankInUse (b : Bank) (s : State) : Bool := allChans.any fun c => (s.ownerAt (slot b c)).isSome

/-- `program_offset(b)` (R113). -/
def programOffset (b : Bank) (s : State) : Word := s.offsetAt b

/-- The bank in use that `allocate` tries first without a usable argument (R114). -/
def lowestInUse (s : State) : Option Bank :=
  if bankInUse 0 s then some 0 else if bankInUse 1 s then some 1 else none

/-- `preferred(pref)` (R114). -/
def preferred (pref : Option Bank) (s : State) : Option Bank :=
  match pref with
  | some p => if bankInUse p s then some p else lowestInUse s
  | none => lowestInUse s

/-- `resolve(b, c) = OWNER[slot(b, c)]` (R121). -/
def resolve (b : Bank) (c : Chan) (s : State) : Option Sid := s.ownerAt (slot b c)

/-! ## `reserve`, `claim`, `fresh`, `allocate` (R115 to R118) -/

/-- What `reserve` gives: a channel, none, or a fatal fault, with the state after. -/
inductive Reserved where
  | got (c : Chan) (s : State)
  | none (s : State)
  | fatal (s : State)
  deriving DecidableEq, Repr

/-- What `allocate` gives: a slot with its program offset, failure, or a fatal fault, with the state after. -/
inductive Allocated where
  | ok (b : Bank) (c : Chan) (offset : Word) (s : State)
  | fail (s : State)
  | fatal (s : State)
  deriving DecidableEq, Repr

/-- `reserve(b)`: ask the collaborator; an answer outside 0 to 3 or not in `free(b)` is fatal (R115). -/
def reserve (b : Bank) (s : State) : Reserved :=
  match askReserve b s with
  | (none, s1) => .none s1
  | (some n, s1) =>
    if n < 4 ∧ s1.ownerAt (slot b (BitVec.ofNat 2 n)) = none then .got (BitVec.ofNat 2 n) s1
    else .fatal (raiseFatal .arbitration s1)

/-- `claim(b, c, sid)`, the only write to OWNER (R116). -/
def claim (b : Bank) (c : Chan) (sid : Sid) (s : State) : State := setOwner (slot b c) (some sid) s

/-- Claim a channel of a bank whose program is resident: `ok(b, c, OFFSET[b])` (R118 items 1 and 2). -/
def claimResident (b : Bank) (c : Chan) (sid : Sid) (s : State) : Allocated := .ok b c (s.offsetAt b) (claim b c sid s)

/-- `fresh(b, sid)`: can_load, then reserve, then load, then claim (R117). -/
def fresh (b : Bank) (sid : Sid) (s : State) : Allocated :=
  match askCanLoad b s with
  | (false, s1) => .fail s1
  | (true, s1) =>
    match reserve b s1 with
    | .none s2 => .fail s2
    | .fatal s2 => .fatal s2
    | .got c s2 =>
      match askLoad b s2 with
      | (off, s3) => claimResident b c sid (setOffset b off s3)

/-- Item 2 of the policy: the other bank, reused when in use and else brought into use (R118). -/
def allocateOther (b : Bank) (sid : Sid) (s : State) : Allocated :=
  if bankInUse b s then
    match reserve b s with
    | .got c s1 => claimResident b c sid s1
    | .none s1 => .fail s1
    | .fatal s1 => .fatal s1
  else fresh b sid s

/-- Items 1 and 2: a preferred bank, then the other one (R118). -/
def allocateFrom (p : Bank) (sid : Sid) (s : State) : Allocated :=
  match reserve p s with
  | .got c s1 => claimResident p c sid s1
  | .fatal s1 => .fatal s1
  | .none s1 => allocateOther (otherBank p) sid s1

/-- Item 3: nothing in use yet, the first bank and then the second (R118). -/
def allocateFirst (sid : Sid) (s : State) : Allocated :=
  match fresh 0 sid s with
  | .ok b c off s1 => .ok b c off s1
  | .fatal s1 => .fatal s1
  | .fail s1 => fresh 1 sid s1

/-- `allocate(sid, pref)` (R118). -/
def allocate (sid : Sid) (pref : Option Bank) (s : State) : Allocated :=
  match preferred pref s with
  | some p => allocateFrom p sid s
  | none => allocateFirst sid s

/-! ## The meanings -/

/-- The command form of `allocate`, for ALLOC and ALLOC.P (R119): refused on every port but ARB (R92). -/
def allocCommand (sid : Sid) (pref : Option Bank) (s : State) : Host.Outcome State Fault Refusal :=
  whenRunning s <|
    if s.port ≠ .arb then .next (refuse .port s)
    else if s.cfg.nSess ≤ sid.toNat then .next (refuse .sid s)
    else
      match allocate sid pref s with
      | .ok b c off s1 => .next (respond [(slot b c).setWidth 32, off] s1)
      | .fail s1 => .next (respond [noneWord, 0] s1)
      | .fatal s1 => .next s1

/-- A read-only arbiter query: accepted on ARB and HOST (R92), one answer, no state changed. -/
def queryCommand (answer : Word) (s : State) : Host.Outcome State Fault Refusal :=
  whenRunning s <|
    if s.port = .stimulus then .next (refuse .port s) else .next (respond [answer] s)

/-- ALLOC sid (R119). -/
def execAlloc (sid : Sid) (s : State) : Host.Outcome State Fault Refusal := allocCommand sid none s

/-- ALLOC.P sid, pref (R119). -/
def execAllocP (sid : Sid) (pref : Bank) (s : State) : Host.Outcome State Fault Refusal := allocCommand sid (some pref) s

/-- The word RESOLVE answers (R95, R121). -/
def resolveWord (v : Option Sid) : Word :=
  match v with
  | some sid => sid.setWidth 32
  | none => noneWord

/-- RESOLVE bank, channel (R121). -/
def execResolve (b : Bank) (c : Chan) (s : State) : Host.Outcome State Fault Refusal :=
  queryCommand (resolveWord (resolve b c s)) s

/-- BANKUSE bank (R122). -/
def execBankuse (b : Bank) (s : State) : Host.Outcome State Fault Refusal :=
  queryCommand (boolWord (bankInUse b s)) s

/-- PROGOFF bank (R123). -/
def execProgoff (b : Bank) (s : State) : Host.Outcome State Fault Refusal :=
  queryCommand (programOffset b s) s

end Sys2Proof.Machine
end

