-- ==== Sys2Proof/Machine/SessionEvents.lean ====
section
/-! DEFINITION. The events: serving a capture interrupt, serving a watchdog expiry, the time base, and the meanings of
the stimulus words EV_CAPTURE, EV_WDEXP, EV_TIME (spec 42_session_events.md, 60_exceptions.md, 30_encoding.md R94). -/

namespace Sys2Proof.Machine

/-! ## `on_capture` (R170 to R174, R181) -/

/-- `S[sid].direction <- d` (R172). -/
def setDirection (sid : Sid) (d : Bool) (s : State) : State :=
  setSession sid { s.session sid with direction := d } s

/-- `S[sid].period_us <- x` (R173, R175). -/
def setPeriod (sid : Sid) (x : Word64) (s : State) : State :=
  setSession sid { s.session sid with periodUs := x } s

/-- Steps 4 and 5: clear the flag, rearm with `max_counter`, restart the watchdog (R174). -/
def rearm (sid : Sid) (b : Bank) (c : Chan) (m : Word) (s : State) : State :=
  wdStart sid (emit (.arm b c m) (emit (.flagClear b c) s))

/-- Step 3 with the second value read: the range check, the period, then steps 4 and 5 (R173, R174, R181). -/
def onCount (sid : Sid) (b : Bank) (c : Chan) (m v2 : Word) (s : State) : State :=
  if m < v2 then raiseFatal .range s else rearm sid b c m (setPeriod sid (periodOf s.cfg m v2) s)

/-- `on_capture(sid)`: cancel the watchdog, read the direction, read the count; a read with no value is fatal
(R170 to R173, R200). -/
def onCapture (sid : Sid) (s : State) : State :=
  let b := (s.session sid).bank
  let c := (s.session sid).channel
  let m := (s.session sid).maxCounter
  match askRead b c (wdCancel sid s) with
  | (none, s1) => raiseFatal .empty s1
  | (some v1, s1) =>
    match askRead b c (setDirection sid (directionOf v1) s1) with
    | (none, s2) => raiseFatal .empty s2
    | (some v2, s2) => onCount sid b c m v2 s2

/-- `serve_capture(b, c)`: one table read, then the owner's `on_capture`; an unowned slot is fatal (R231, R232). -/
def serveCapture (b : Bank) (c : Chan) (s : State) : State :=
  match resolve b c s with
  | none => raiseFatal .unresolved s
  | some sid => onCapture sid s

/-! ## `on_watchdog_expiry` (R175, R176, R234, R238) -/

/-- `on_watchdog_expiry(sid)`: the watchdog idle and the period +0.0, nothing else (R175, R176). -/
def onExpiry (sid : Sid) (s : State) : State := setPeriod sid 0 (wdCancel sid s)

/-- A capture of the session's own channel is pending that became ready at the instant `d`: then it is served before
an expiry due at `d` (R234(c); notes/assumptions/5.md). -/
def captureReadyAt (sid : Sid) (d : Word64) (s : State) : Bool :=
  let b := (s.session sid).bank
  let c := (s.session sid).channel
  pending b c s && (s.chan (slot b c)).flagTime == d

/-- `on_watchdog_expiry(sid)` is enabled: the unit exists, its watchdog is pending with a deadline TIME_US has reached
(R238), and no capture of it became ready at that very instant (R234(c)). -/
def expiryEnabled (sid : Sid) (s : State) : Bool :=
  match (s.session sid).wd with
  | .idle => false
  | .pending d => decide (sid.toNat < s.cfg.nSess) && decide (d ≤ s.timeUs) && !captureReadyAt sid d s

/-! ## The meanings of the stimulus words (R94) -/

/-- A stimulus word: refused with RF_PORT anywhere but in the stimulus stream (R92). -/
def stimulusCommand (s : State) (k : Host.Outcome State Fault Refusal) : Host.Outcome State Fault Refusal :=
  whenRunning s <| if s.port ≠ .stimulus then .next (refuse .port s) else k

/-- The collaborator captures, and the block serves the interrupt if it is pending (R94, R203, R228, R231). -/
def captureAndServe (b : Bank) (c : Chan) (dirword countword : Word) (s : State) : State :=
  let s1 := setCollab (capture (slot b c) dirword countword s.timeUs s.collab) s
  if pending b c s1 then serveCapture b c s1 else s1

/-- EV_CAPTURE bank, channel, dirword, countword (R94, R170). -/
def execEvCapture (b : Bank) (c : Chan) (dirword countword : Word) (s : State) : Host.Outcome State Fault Refusal :=
  stimulusCommand s (.next (captureAndServe b c dirword countword s))

/-- EV_WDEXP sid: serve the expiry; a test program that has it where the expiry is not enabled is ill-formed and is
rejected (R94, R175). -/
def execEvWdexp (sid : Sid) (s : State) : Host.Outcome State Fault Refusal :=
  stimulusCommand s (if expiryEnabled sid s then .next (onExpiry sid s) else .refused .stimulusIllFormed)

/-- EV_TIME time: `TIME_US <- time`, only forwards (R94, R240). -/
def execEvTime (time : Word64) (s : State) : Host.Outcome State Fault Refusal :=
  stimulusCommand s (if s.timeUs ≤ time then .next (setTime time s) else .refused .stimulusIllFormed)

end Sys2Proof.Machine
end

