-- ==== Sys2Proof/Machine/SessionHost.lean ====
section
/-! DEFINITION. The host operations of a session unit: CONSTRUCT, INIT, GETDIR, GETPER, GETBANK
(spec 41_session_host.md). -/

namespace Sys2Proof.Machine

/-- The checks common to the five operations, in the order of R97 and R140, before anything else: port, handle,
control state. -/
def sessionCommand (sid : Sid) (allowed : List Fsm) (s : State) (k : State) : Host.Outcome State Fault Refusal :=
  whenRunning s <|
    if s.port ≠ .host then .next (refuse .port s)
    else if s.cfg.nSess ≤ sid.toNat then .next (refuse .sid s)
    else if (s.session sid).fsm ∉ allowed then .next (refuse .state s)
    else .next k

/-! ## CONSTRUCT (R141, R142) -/

/-- A session unit as CONSTRUCT leaves it: four fields written, the others kept (R141). -/
def constructed (basePin : Word) (timeoutUs : Word64) (m : Word) (u : Session) : Session :=
  { u with basePin := basePin, timeoutUs := timeoutUs, maxCounter := m, fsm := .uninitialized }

/-- CONSTRUCT after the common checks (R141, R142). -/
def construct (sid : Sid) (basePin : Word) (timeoutUs : Word64) (s : State) : State :=
  let m := maxCounterOf s.cfg timeoutUs
  if 2 ^ 32 ≤ m then refuse .range s
  else respond [0] (setSession sid (constructed basePin timeoutUs (BitVec.ofNat 32 m) (s.session sid)) s)

/-- CONSTRUCT sid, base_pin, timeout_us (R141). -/
def execConstruct (sid : Sid) (basePin : Word) (timeoutUs : Word64) (s : State) : Host.Outcome State Fault Refusal :=
  sessionCommand sid [.absent] s (construct sid basePin timeoutUs s)

/-! ## INIT (R144 to R147) -/

/-- `S[sid].bank <- b; S[sid].channel <- c; S[sid].offset <- off` (R144). -/
def bindSlot (sid : Sid) (b : Bank) (c : Chan) (off : Word) (s : State) : State :=
  setSession sid { s.session sid with bank := b, channel := c, offset := off } s

/-- The six calls INIT makes before the watchdog is started, in order (R144). -/
def setupCalls (b : Bank) (c : Chan) (off pin : Word) : List Call :=
  [.pinPulldown pin, .pinPulldown (secondPin pin), .configure b c off pin, .enable b c, .clear b c,
    .enableLines b allLines]

/-- `emit` each call of a list, in order (R68). -/
def emitAll (cs : List Call) (s : State) : State := cs.foldl (fun s c => emit c s) s

/-- `S[sid].fsm <- Initialized` (R144). -/
def markInitialized (sid : Sid) (s : State) : State :=
  setSession sid { s.session sid with fsm := .initialized } s

/-- INIT after a successful `allocate`: program the channel, start the watchdog, arm, mark initialized (R144). -/
def initSlot (sid : Sid) (b : Bank) (c : Chan) (off : Word) (s : State) : State :=
  let pin := (s.session sid).basePin
  let m := (s.session sid).maxCounter
  let s1 := emitAll (setupCalls b c off pin) (bindSlot sid b c off s)
  markInitialized sid (emit (.arm b c m) (wdStart sid s1))

/-- INIT after the common checks (R144, R145). -/
def initSession (sid : Sid) (s : State) : State :=
  match allocate sid none s with
  | .fail s1 => respond [s1.cfg.errExhausted] s1
  | .fatal s1 => s1
  | .ok b c off s1 => respond [0] (initSlot sid b c off s1)

/-- INIT sid (R144). -/
def execInit (sid : Sid) (s : State) : Host.Outcome State Fault Refusal :=
  sessionCommand sid [.uninitialized] s (initSession sid s)

/-! ## The accessors (R148 to R150) -/

/-- The control states in which an accessor is allowed (R140). -/
def constructedStates : List Fsm := [.uninitialized, .initialized]

/-- GETDIR sid (R148). -/
def execGetdir (sid : Sid) (s : State) : Host.Outcome State Fault Refusal :=
  sessionCommand sid constructedStates s (respond [boolWord (s.session sid).direction] s)

/-- The two words of a period, low word first, of one snapshot (R65, R95, R149). -/
def periodWords (u : Session) : List Word := [lo64 u.periodUs, hi64 u.periodUs]

/-- GETPER sid (R149). -/
def execGetper (sid : Sid) (s : State) : Host.Outcome State Fault Refusal :=
  sessionCommand sid constructedStates s (respond (periodWords (s.session sid)) s)

/-- The word GETBANK answers: the bank when Initialized, else "none" (R150). -/
def bankWord (u : Session) : Word := if u.initialized then u.bank.setWidth 32 else noneWord

/-- GETBANK sid (R150). -/
def execGetbank (sid : Sid) (s : State) : Host.Outcome State Fault Refusal :=
  sessionCommand sid constructedStates s (respond [bankWord (s.session sid)] s)

end Sys2Proof.Machine
end

