-- ==== Sys2Proof/Machine/Dispatch.lean ====
section
/-! DEFINITION. The meaning of each instruction, by name. -/

namespace Sys2Proof.Machine

def exec (i : Instr) (s : State) : Host.Outcome State Fault Refusal :=
  match i with
  | .construct sid basePin timeoutUs => Sys2Proof.Machine.execConstruct sid basePin timeoutUs s
  | .init sid => Sys2Proof.Machine.execInit sid s
  | .getdir sid => Sys2Proof.Machine.execGetdir sid s
  | .getper sid => Sys2Proof.Machine.execGetper sid s
  | .getbank sid => Sys2Proof.Machine.execGetbank sid s
  | .alloc sid => Sys2Proof.Machine.execAlloc sid s
  | .allocP sid pref => Sys2Proof.Machine.execAllocP sid pref s
  | .resolve bank chan => Sys2Proof.Machine.execResolve bank chan s
  | .bankuse bank => Sys2Proof.Machine.execBankuse bank s
  | .progoff bank => Sys2Proof.Machine.execProgoff bank s
  | .evCapture bank chan dirword countword => Sys2Proof.Machine.execEvCapture bank chan dirword countword s
  | .evWdexp sid => Sys2Proof.Machine.execEvWdexp sid s
  | .evTime time => Sys2Proof.Machine.execEvTime time s

end Sys2Proof.Machine
end

