-- ==== Sys2Proof/Machine/Scheduler.lean ====
section
/-! DEFINITION. What happens next: taking a command from the words at a port (spec 20_memory.md R64, 30_encoding.md R80
to R93), the events of the outside (43_collaborator.md section 3), and the order of simultaneous events
(60_exceptions.md R233; notes/assumptions/4.md). -/

namespace Sys2Proof.Machine

/-- The words at a port hold a whole command, legal or not. -/
def commandReady (p : Port) (s : State) : Bool :=
  match decode (s.rxAt p) with
  | .incomplete => false
  | .illegal _ _ => true
  | .command _ _ => true

/-- A command is partly received at the HOST port: the block is waiting for its missing words and takes no step until
they arrive or RESET drops them (R64, R50; 93_implementation_defined.md U23; notes/assumptions/16.md). -/
def hostWaiting (s : State) : Bool := !(s.rxAt .host).isEmpty && !commandReady .host s

/-- Take the oldest command from the words `ws` at port `p`: run it, or refuse an illegal one with RF_ILLEGAL; words
that make no complete command yet wait, and nothing else happens (R64, R84, R91, R93). While the block is waiting for the
rest of a HOST command, words at another port only wait (R64; notes/assumptions/16.md). -/
def takeCommand (p : Port) (ws : List Word) (s : State) : Host.Outcome State Fault Refusal :=
  whenRunning s <|
    if p ≠ .host ∧ hostWaiting s = true then .next (setRx p ws s)
    else
      match decode ws with
      | .incomplete => .next (setRx p ws s)
      | .illegal _ rest => .next (refuse .illegal (setPort p (setRx p rest s)))
      | .command i rest => exec i (setPort p (setRx p rest s))

/-- Slot `i` has a pending capture (R228). -/
def pendingSlot (s : State) (i : Slot) : Bool := pending (bankOf i) (chanOf i) s

/-- One event of the outside (R7, R192, R203, R207, R231, R250). -/
def perform (e : Event) (s : State) : Host.Outcome State Fault Refusal :=
  match e with
  | .port p ws => takeCommand p (s.rxAt p ++ ws) s
  | .capture b c d r => .next (setCollab (capture (slot b c) d r s.timeUs s.collab) s)
  | .strayFlag b c => .next (setCollab (strayFlag (slot b c) s.timeUs s.collab) s)
  | .program b room off => .next (setCollab (program b room off s.collab) s)
  | .foreign call => if s.cfg.collabClosed then .refused .notEnabled else .next (setCollab (react call s.collab) s)
  | .serve b c =>
    whenRunning s <|
      if pending b c s = true ∧ hostWaiting s = false then .next (serveCapture b c s) else .refused .notEnabled
  | .reset => .next (resetBlock s)

/-- What an idle block does when left to itself, in the reference order of R233: a pending capture in IRQ_ORDER, then a
due watchdog by ascending handle, then a received command (HOST before ARB before the stimulus stream,
notes/assumptions/4.md); with none of them nothing changes (R7, R247; notes/assumptions/24.md). -/
def serveNext (s : State) : Host.Outcome State Fault Refusal :=
  match s.cfg.irqOrder.find? (pendingSlot s) with
  | some i => .next (serveCapture (bankOf i) (chanOf i) s)
  | none =>
    match allSids.find? (fun sid => expiryEnabled sid s) with
    | some sid => .next (onExpiry sid s)
    | none =>
      match [Port.host, Port.arb, Port.stimulus].find? (fun p => commandReady p s) with
      | some p => takeCommand p (s.rxAt p) s
      | none => .next s

/-- The block left to itself: waiting for the rest of a HOST command it takes no step (R64), else it serves what comes
next. -/
def settle (s : State) : Host.Outcome State Fault Refusal :=
  whenRunning s <| if hostWaiting s then .next s else serveNext s

/-- One step: the next event of the agenda, or the block left to itself when there is none. -/
def advance (s : State) : Host.Outcome State Fault Refusal :=
  match s.agenda with
  | [] => settle s
  | e :: rest => perform e (setAgenda rest s)

/-- The port on which a head word is a command: ARB for ALLOC and ALLOC.P, the stimulus stream for the three events,
HOST for the rest (R90, R92). -/
def portOfHead (w : Word) : Port :=
  if opcField w = 0x8 then .arb
  else if opcField w = 0xC ∨ opcField w = 0xD ∨ opcField w = 0xE then .stimulus
  else .host

/-- The words arrive next, at the port that accepts them, with nothing waiting there before them and no command partly
received at the HOST port. -/
def placeCommand (ws : List Word) (s : State) : State :=
  let p := portOfHead (extWord ws 0)
  setAgenda (.port p ws :: s.agenda) (setRx p [] (setRx .host [] s))

end Sys2Proof.Machine
end

