-- ==== Sys2Proof/Safety.lean ====
section
/-! DEFINITION. What counts as a sound state, in the terms the claims use: the invariants of spec 10_state.md R37 to
R39, the load count of 40_arbiter.md R125(c), and the collaborator's contract of 43_collaborator.md R203, R205, R207. -/

namespace Sys2Proof.Machine

/-- The block is not halted (R225). -/
abbrev Running (s : State) : Prop := s.fault.halted = false

/-- A command on the HOST port to a session unit that exists, on a block that is not halted: the checks of R97 before
the control state. -/
structure HostReady (sid : Sid) (s : State) : Prop where
  running : s.fault.halted = false
  port : s.port = .host
  exists_ : sid.toNat < s.cfg.nSess

/-- The five host operations with the session they name and the control states R140 allows them in. -/
def hostOperation : Instr → Option (Sid × List Fsm)
  | .construct sid _ _ => some (sid, [.absent])
  | .init sid => some (sid, [.uninitialized])
  | .getdir sid => some (sid, [.uninitialized, .initialized])
  | .getper sid => some (sid, [.uninitialized, .initialized])
  | .getbank sid => some (sid, [.uninitialized, .initialized])
  | .alloc _ => none
  | .allocP _ _ => none
  | .resolve _ _ => none
  | .bankuse _ => none
  | .progoff _ => none
  | .evCapture _ _ _ _ => none
  | .evWdexp _ => none
  | .evTime _ => none

/-- Which port accepts which operation (R92). -/
def acceptedOn : Instr → Port → Bool
  | .construct _ _ _, p => p == .host
  | .init _, p => p == .host
  | .getdir _, p => p == .host
  | .getper _, p => p == .host
  | .getbank _, p => p == .host
  | .alloc _, p => p == .arb
  | .allocP _ _, p => p == .arb
  | .resolve _ _, p => p == .host || p == .arb
  | .bankuse _, p => p == .host || p == .arb
  | .progoff _, p => p == .host || p == .arb
  | .evCapture _ _ _ _, p => p == .stimulus
  | .evWdexp _, p => p == .stimulus
  | .evTime _, p => p == .stimulus

/-- No command is partly received at the HOST port: nothing waits there, or the oldest command there is whole (R64). -/
def HostIdle (s : State) : Prop :=
  s.rxAt .host = [] ∨ ∃ w ext, s.rxAt .host = w :: ext ∧ extensionWords w ≤ ext.length

/-- The order in which an idle block looks for a waiting command (notes/assumptions/4.md). -/
def Port.rank : Port → Nat
  | .host => 0
  | .arb => 1
  | .stimulus => 2

/-- `s` with one more response (R95). -/
def answering (s : State) (rerr : Bool) (words : List Word) : State :=
  { s with responses := s.responses ++ [⟨s.port, rerr, words⟩] }

/-- The illegal head words of R93, by opcode and by the bits each format marks "zero" (R82 to R88). -/
def illegalHead (w : Word) : Prop :=
  opcField w ∈ ([0x0, 0x6, 0x7, 0xF] : List (BitVec 4)) ∨
    (opcField w ∈ ([0x1, 0x2, 0x3, 0x4, 0x5, 0xD] : List (BitVec 4)) ∧ w.extractLsb' 0 24 ≠ 0) ∨
    (opcField w = 0x8 ∧ w.extractLsb' 2 22 ≠ 0) ∨
    (opcField w ∈ ([0x9, 0xC] : List (BitVec 4)) ∧ w.extractLsb' 3 25 ≠ 0) ∨
    (opcField w ∈ ([0xA, 0xB] : List (BitVec 4)) ∧ w.extractLsb' 1 27 ≠ 0) ∨
    (opcField w = 0xE ∧ w.extractLsb' 0 28 ≠ 0) ∨
    (opcField w = 0x8 ∧ w.extractLsb' 0 2 = 1)

/-- The value of a finite non-negative binary64 image, in units of 2^-1074 (R13). -/
def scaledValue (x : Word64) : Nat :=
  let e := (x.extractLsb' 52 11).toNat
  let f := (x.extractLsb' 0 52).toNat
  if e = 0 then f else (2 ^ 52 + f) * 2 ^ (e - 1)

/-- The distance of a binary64 value from `num / den`, in units of 2^-1074 / den (R13). -/
def distance (num den : Nat) (x : Word64) : Nat := ((scaledValue x * den : Int) - num * 2 ^ 1074).natAbs

/-- No event of the outside reaches the ARB port, which is inside the block (R92, R245). -/
abbrev Event.leavesArb (e : Event) : Bool :=
  match e with
  | .port .arb _ => false
  | _ => true

/-- The invariants of R38 (e) to (j), for a well-formed configuration (R9) and an ARB port nothing outside reaches
(R245). -/
structure BlockInv (s : State) : Prop where
  cfgWf : s.cfg.wf
  /-- (e) -/
  ownerOf : ∀ i sid, s.ownerAt i = some sid →
    (s.session sid).fsm = .initialized ∧ slot (s.session sid).bank (s.session sid).channel = i
  /-- (f), with (e): exactly one slot. -/
  owned : ∀ sid, (s.session sid).fsm = .initialized →
    s.ownerAt (slot (s.session sid).bank (s.session sid).channel) = some sid
  /-- (g), first half. -/
  offsetUsed : ∀ b, s.offsetAt b ≠ 0 → bankInUse b s = true
  /-- (g), second half. -/
  offsetOf : ∀ sid, (s.session sid).fsm = .initialized → (s.session sid).offset = s.offsetAt (s.session sid).bank
  /-- (h) and the second half of (i). -/
  quiet : ∀ sid, (s.session sid).fsm ≠ .initialized →
    (s.session sid).periodUs = 0 ∧ (s.session sid).direction = false ∧ (s.session sid).wd = .idle
  /-- (i), first half. -/
  absent : ∀ sid, (s.session sid).fsm = .absent → s.session sid = Session.reset
  /-- (j) -/
  counter : ∀ sid, (s.session sid).fsm ≠ .absent →
    (s.session sid).maxCounter.toNat = maxCounterOf s.cfg (s.session sid).timeoutUs
  /-- Only the NSESS units that exist are ever constructed (R9, R97). -/
  beyond : ∀ sid : Sid, s.cfg.nSess ≤ sid.toNat → (s.session sid).fsm = .absent
  /-- INIT enables all four lines of its session's bank and nothing clears them (R228, R265). -/
  lines : ∀ sid, (s.session sid).fsm = .initialized → (s.bankEnv (s.session sid).bank).lineEn = 0b1111
  /-- R245: the ARB port is not reached from outside. -/
  arbIdle : s.rx.arb = []
  arbInternal : ∀ e ∈ s.agenda, e.leavesArb = true

/-- The session an instruction may write: the one CONSTRUCT, INIT and EV_WDEXP name, and for EV_CAPTURE the owner of its
slot; no other instruction writes a session (R22, R141, R144, R170, R175). -/
def sessionWritten (i : Instr) (s : State) : Option Sid :=
  match i with
  | .construct sid _ _ => some sid
  | .init sid => some sid
  | .getdir _ => none
  | .getper _ => none
  | .getbank _ => none
  | .alloc _ => none
  | .allocP _ _ => none
  | .resolve _ _ => none
  | .bankuse _ => none
  | .progoff _ => none
  | .evCapture b c _ _ => s.ownerAt (slot b c)
  | .evWdexp sid => some sid
  | .evTime _ => none

/-- The session the oldest command of `ws` may write. -/
def sessionOfWords (ws : List Word) (s : State) : Option Sid :=
  match decode ws with
  | .command i _ => sessionWritten i s
  | .illegal _ _ => none
  | .incomplete => none

/-- The session the next step may write: that of the command arriving; the owner of the slot being served; left to
itself, the owner of the slot served first, else the session whose watchdog is due first, else that of the command taken
first (R233). -/
def nextSession (s : State) : Option Sid :=
  match s.agenda with
  | .port p ws :: _ => sessionOfWords (s.rxAt p ++ ws) s
  | .serve b c :: _ => s.ownerAt (slot b c)
  | [] =>
    match s.cfg.irqOrder.find? (pendingSlot s) with
    | some i => s.ownerAt i
    | none =>
      match allSids.find? fun sid => expiryEnabled sid s with
      | some sid => some sid
      | none =>
        match [Port.host, Port.arb, Port.stimulus].find? fun p => commandReady p s with
        | some p => sessionOfWords (s.rxAt p) s
        | none => none
  | _ :: _ => none

/-- The answer `n` to `channel_try_reserve(b)` is outside 0 to 3 or names a channel that is owned (R115). -/
def badAnswer (b : Bank) (n : Nat) (s : State) : Prop := 4 ≤ n ∨ s.ownerAt (slot b (BitVec.ofNat 2 n)) ≠ none

/-- F_ARBITRATION raised from `s` on the answer `n` of bank `b`, after the calls `cs`: FAULT is written and nothing else
but the record of calls, the draws of an open collaborator, and the reservation the collaborator itself made
(R115, R193, R224). -/
structure ArbitrationFault (b : Bank) (n : Nat) (cs : List Call) (s t : State) : Prop where
  fault : t.fault = ⟨true, 4⟩
  calls : t.calls = s.calls ++ cs ++ [.tryReserve b (some n)]
  owner : t.owner = s.owner
  offset : t.offset = s.offset
  sessions : t.sessions = s.sessions
  responses : t.responses = s.responses
  chan : ∀ i, t.chan i =
    if n < 4 ∧ i = slot b (BitVec.ofNat 2 n) then { s.chan i with reserved := true } else s.chan i
  bankEnv : ∀ b', t.bankEnv b' = s.bankEnv b'
  timeUs : t.timeUs = s.timeUs
  cfg : t.cfg = s.cfg
  port : t.port = s.port
  rx : t.rx = s.rx
  agenda : t.agenda = s.agenda

/-- The capture of session `sid` on slot `(b, c)` with the words `v1`, `v2` served from `s`, `rest` and `flagged` being
the channel's queue and the time of its flag afterwards (R171 to R174). -/
structure CaptureServed (sid : Sid) (b : Bank) (c : Chan) (v1 v2 : Word) (rest : List Word) (flagged : Word64)
    (s t : State) : Prop where
  session : t.session sid =
    { s.session sid with
      direction := !v1.getLsbD 0
      periodUs := f64 (((s.session sid).maxCounter.toNat - v2.toNat) * 2 * s.cfg.usPerS) s.cfg.clockRate
      wd := .pending (s.timeUs + (s.session sid).timeoutUs) }
  others : ∀ x, x ≠ sid → t.session x = s.session x
  channel : t.chan (slot b c) =
    { s.chan (slot b c) with
      fifo := rest, armed := some (s.session sid).maxCounter, irqFlag := false, flagTime := flagged }
  channels : ∀ i, i ≠ slot b c → t.chan i = s.chan i
  bankEnv : ∀ b', t.bankEnv b' = s.bankEnv b'
  calls : t.calls = s.calls ++
    [.readValue b c (some v1), .readValue b c (some v2), .flagClear b c, .arm b c (s.session sid).maxCounter]
  answers : t.collab.answers = s.collab.answers
  draws : t.collab.draws = s.collab.draws
  owner : t.owner = s.owner
  offset : t.offset = s.offset
  fault : t.fault = s.fault
  timeUs : t.timeUs = s.timeUs
  cfg : t.cfg = s.cfg
  port : t.port = s.port
  rx : t.rx = s.rx
  agenda : t.agenda = s.agenda
  responses : t.responses = s.responses

/-- What a capture with the words `d`, `r` on slot `(b, c)` makes of the collaborator of `s`: `k` (R203). -/
structure CaptureArrived (b : Bank) (c : Chan) (d r : Word) (s : State) (k : Collab) : Prop where
  channel : k.chan (slot b c) =
    { s.chan (slot b c) with
      fifo := (s.chan (slot b c)).fifo ++ [d, r], armed := none, irqFlag := true, flagTime := s.timeUs }
  channels : ∀ i, i ≠ slot b c → k.chan i = s.chan i
  banks : ∀ b', k.bank b' = s.bankEnv b'
  answers : k.answers = s.collab.answers
  draws : k.draws = s.collab.draws

/-- The service of a capture of session `sid` on slot `(b, c)`, begun in `s`, cut by the fatal fault `code`: the session
is left as `u` and the channel as `ch`, the calls `cs` have been made, and nothing else but FAULT has changed (R224). -/
structure CaptureCut (code : BitVec 4) (sid : Sid) (b : Bank) (c : Chan) (u : Session) (ch : Channel) (cs : List Call)
    (s t : State) : Prop where
  fault : t.fault = ⟨true, code⟩
  session : t.session sid = u
  others : ∀ x, x ≠ sid → t.session x = s.session x
  channel : t.chan (slot b c) = ch
  channels : ∀ i, i ≠ slot b c → t.chan i = s.chan i
  bankEnv : ∀ b', t.bankEnv b' = s.bankEnv b'
  calls : t.calls = s.calls ++ cs
  answers : t.collab.answers = s.collab.answers
  draws : t.collab.draws = s.collab.draws
  owner : t.owner = s.owner
  offset : t.offset = s.offset
  timeUs : t.timeUs = s.timeUs
  cfg : t.cfg = s.cfg
  port : t.port = s.port
  rx : t.rx = s.rx
  agenda : t.agenda = s.agenda
  responses : t.responses = s.responses

/-- `p` is the preferred bank of R114: the argument when it names a bank in use; else bank 0 when that is in use; else
bank 1 when that is. -/
def Prefers (pref : Option Bank) (s : State) (p : Bank) : Prop :=
  (pref = some p ∧ bankInUse p s = true) ∨
    ((∀ q, pref = some q → bankInUse q s = false) ∧
      ((p = 0 ∧ bankInUse 0 s = true) ∨ (p = 1 ∧ bankInUse 0 s = false ∧ bankInUse 1 s = true)))

/-- Every item of the block's state at its reset value (R50). -/
structure ResetValues (s : State) : Prop where
  owner : ∀ i, s.ownerAt i = none
  offset : ∀ b, s.offsetAt b = 0
  session : ∀ sid, s.session sid =
    { fsm := .absent, basePin := 0, timeoutUs := 0, maxCounter := 0, periodUs := 0, direction := false, bank := 0
      channel := 0, offset := 0, wd := .idle }
  fault : s.fault = ⟨false, 0⟩
  rx : ∀ p, s.rxAt p = []

/-- The collaborator in its reset state: nothing reserved, configured, enabled or armed, no value to read, no flag, no
program resident, no line enabled (R252(a)). -/
structure CollabResetValues (s : State) : Prop where
  chan : ∀ i, s.chan i =
    { reserved := false, configured := none, enabled := false, armed := none, fifo := [], irqFlag := false
      flagTime := 0 }
  resident : ∀ b, (s.bankEnv b).resident = false
  lineEn : ∀ b, (s.bankEnv b).lineEn = 0

/-- The invariants of R39 in the closed system: (l) and (m). -/
structure ClosedInv (s : State) : Prop where
  closed : s.cfg.collabClosed = true
  reservedOwned : ∀ i, (s.chan i).reserved = (s.ownerAt i).isSome
  residentInUse : ∀ b, (s.bankEnv b).resident = bankInUse b s

/-- How often `program_load(b)` has been called since reset: the load-count probe of R195. -/
def loadCount (b : Bank) (s : State) : Nat :=
  s.calls.countP fun c =>
    match c with
    | .load b' _ => b' == b
    | _ => false

/-- R112 and R125(c): the program is loaded once into a bank in use and never into another. -/
def LoadInv (s : State) : Prop := ∀ b, loadCount b s = if bankInUse b s then 1 else 0

/-- One channel between two services, with the count `m` its session arms it with: armed, with no flag and nothing to
read, or captured, with a flag and the two words of one capture in contract (R203, R205). -/
def ChannelInContract (m : Word) (ch : Channel) : Prop :=
  (ch.armed = some m ∧ ch.irqFlag = false ∧ ch.fifo = []) ∨
    (ch.armed = none ∧ ch.irqFlag = true ∧ ∃ d r : Word, ch.fifo = [d, r] ∧ r ≤ m)

/-- Every owned channel is in contract; a channel no session owns is disarmed and raises no flag (R207(a)). -/
structure ContractInv (s : State) : Prop where
  ownedChannel : ∀ i sid, s.ownerAt i = some sid → ChannelInContract (s.session sid).maxCounter (s.chan i)
  freeChannel : ∀ i, s.ownerAt i = none → (s.chan i).armed = none ∧ (s.chan i).irqFlag = false

/-- A capture the contract allows: the channel is armed with a count, the direction word is 0 or 1, and the remaining
count is at most that count (R203, R207(b)). -/
def captureInContract (b : Bank) (c : Chan) (d r : Word) (s : State) : Bool :=
  match (s.chan (slot b c)).armed with
  | some count => decide (d ≤ 1) && decide (r ≤ count)
  | none => false

/-- The words at a port ask for no capture out of contract. -/
def wordsInContract (ws : List Word) (s : State) : Bool :=
  match decode ws with
  | .command (.evCapture b c d r) _ => captureInContract b c d r s
  | _ => true

/-- What happens next is in the collaborator's contract (R203, R207). -/
def nextInContract (s : State) : Bool :=
  match s.agenda with
  | [] => [Port.host, Port.arb, Port.stimulus].all fun p => wordsInContract (s.rxAt p) s
  | .capture b c d r :: _ => captureInContract b c d r s
  | .strayFlag _ _ :: _ => false
  | .port p ws :: _ => wordsInContract (s.rxAt p ++ ws) s
  | _ :: _ => true

/-- The event about to happen is a RESET (R250). -/
def nextIsReset (s : State) : Bool :=
  match s.agenda with
  | .reset :: _ => true
  | _ => false

end Sys2Proof.Machine
end

