-- ==== Sys2Proof/Certificates/Slice0/Obligations.lean ====
section
/-! DEFINITION. The statements about the model. Each docstring names the rule of spec/ it formalises; what rests on a
choice of the model names its entry of notes/assumptions/. -/

open Sys2Proof Sys2Proof.Machine

/-! ## Encoding (30_encoding.md) -/

/-- Every instruction, with every operand, is read back from the words the encoder writes for it, whatever follows. -/
def Obligations.DecodeOfEncode : Prop :=
  ∀ (i : Instr) (rest : List Word), decode (encode i ++ rest) = .command i rest

/-- Words that decode to an instruction are the words the encoder writes for it: every reserved bit is checked and no
second encoding is accepted. -/
def Obligations.EncodeOfDecode : Prop :=
  ∀ (ws : List Word) (i : Instr) (rest : List Word), decode ws = .command i rest → ws = encode i ++ rest

/-- R90: "The rows are disjoint." -/
def Obligations.OpcodeRowsDisjoint : Prop :=
  ∀ (w : Word) (r r' : Row), r ∈ opcodeTable → r' ∈ opcodeTable → r.selects w = true → r'.selects w = true → r = r'

/-- R93 and R84: every illegal head word is answered with RF_ILLEGAL after its extension words are taken, and nothing
else changes; the all-zero and the all-ones word are among them. That it is so on every port, and that the stimulus
stream is answered, is read from R93 where R95 names HOST and ARB only (notes/assumptions/9.md). -/
def Obligations.IllegalHeadsRefused : Prop :=
  illegalHead 0 ∧ illegalHead 0xFFFFFFFF ∧
    ∀ (s : State) (p : Port) (w : Word) (ext rest : List Word) (ag : List Event),
      Running s → s.agenda = .port p (w :: (ext ++ rest)) :: ag → s.rxAt p = [] → HostIdle s → illegalHead w →
      ext.length = extensionWords w →
        step s = .next (answering (setPort p (setRx p rest (setAgenda ag s))) true [1])

/-- R102: the worked encodings decode as the spec writes them, the illegal ones as illegal. -/
def Obligations.WorkedEncodingsDecode : Prop :=
  decode [0x10000000, 0x00000002, 0x000088B8, 0x00000000] = .command (.construct 0 2 35000) [] ∧
    decode [0x11000000, 0x00000004, 0x00004E20, 0x00000000] = .command (.construct 1 4 20000) [] ∧
    decode [0x29000000] = .command (.init 9) [] ∧ decode [0x41000000] = .command (.getper 1) [] ∧
    decode [0x5F000000] = .command (.getbank 15) [] ∧ decode [0x83000000] = .command (.alloc 3) [] ∧
    decode [0x83000003] = .command (.allocP 3 1) [] ∧ decode [0x83000002] = .command (.allocP 3 0) [] ∧ decode [0x83000001] = .illegal .bankWithoutPv [] ∧
    decode [0x90000006] = .command (.resolve 1 2) [] ∧ decode [0xA0000001] = .command (.bankuse 1) [] ∧
    decode [0xB0000000] = .command (.progoff 0) [] ∧
    decode [0xC0000000, 0, 0x00206CC8] = .command (.evCapture 0 0 0 2125000) [] ∧
    decode [0xD0000000] = .command (.evWdexp 0) [] ∧
    decode [0xE0000000, 0x0000891C, 0] = .command (.evTime 35100) [] ∧
    decode [0x20000001] = .illegal .reservedBits [] ∧ decode [0x00000000] = .illegal .reservedOpcode [] ∧
    decode [0x60000000] = .illegal .reservedOpcode [] ∧ decode [0xFFFFFFFF] = .illegal .reservedOpcode []

/-! ## Steps, halting, RESET -/

/-- A step on a port event runs exactly the instruction the waiting words decode to, from the state whose agenda is
popped, whose words are taken and whose port is set: at the HOST port always, at another port when no command is partly
received at the HOST port (R64). -/
def Obligations.StepRunsDecodedCommand : Prop :=
  ∀ (s : State) (p : Port) (ws rest : List Word) (i : Instr) (ag : List Event),
    Running s → s.agenda = .port p ws :: ag → (p = .host ∨ HostIdle s) → decode (s.rxAt p ++ ws) = .command i rest →
      step s = exec i (setPort p (setRx p rest (setAgenda ag s)))

/-- R64: words that stop inside a command wait at their port and nothing else changes; and while a HOST command is partly
received "no step is taken and no state changes until they arrive": left to itself the block does nothing, no capture is
served, and words at another port only wait (that this is so of the HOST port alone is the model's reading,
notes/assumptions/16.md). -/
def Obligations.IncompleteCommandWaits : Prop :=
  (∀ (s : State) (p : Port) (ws : List Word) (w : Word) (ext : List Word) (ag : List Event),
    Running s → s.agenda = .port p ws :: ag → s.rxAt p ++ ws = w :: ext → ext.length < extensionWords w →
      step s = .next (setRx p (w :: ext) (setAgenda ag s))) ∧
    ∀ (s : State) (w : Word) (ext : List Word),
      Running s → s.rxAt .host = w :: ext → ext.length < extensionWords w →
        (s.agenda = [] → step s = .next s) ∧
        (∀ b c ag, s.agenda = .serve b c :: ag → step s = .refused .notEnabled) ∧
        (∀ p ws ag, p ≠ .host → s.agenda = .port p ws :: ag →
          step s = .next (setRx p (s.rxAt p ++ ws) (setAgenda ag s)))

/-- R225: while halted the block takes no step: no instruction runs, no port is answered, no interrupt is served,
nothing settles (that EV_TIME stops too is the model's choice: notes/assumptions/17.md); and no step but RESET changes
FAULT, the tables, a session, or makes a call or a response. -/
def Obligations.HaltedBlockTakesNoStep : Prop :=
  ∀ s : State, s.fault.halted = true →
    (∀ i, exec i s = .fault (.halted s.fault.code)) ∧
    (∀ p ws ag, s.agenda = .port p ws :: ag → step s = .fault (.halted s.fault.code)) ∧
    (∀ b c ag, s.agenda = .serve b c :: ag → step s = .fault (.halted s.fault.code)) ∧
    (s.agenda = [] → step s = .fault (.halted s.fault.code)) ∧
    (∀ t, step s = .next t → nextIsReset s = false →
      t.fault = s.fault ∧ t.owner = s.owner ∧ t.offset = s.offset ∧ t.sessions = s.sessions ∧ t.calls = s.calls ∧
        t.responses = s.responses)

/-- R50 and R250: RESET, from every state, halted or not, takes every item of the block's state to its reset value;
and the machine starts there. R252(a): the collaborator is then in its reset state; that the RESET event itself puts
it there is the model's choice (notes/assumptions/13.md), what it holds when the machine starts is
notes/assumptions/2.md's (the time of its flags is the model's own field, notes/assumptions/5.md). That the
environment's program answers, the open collaborator's answers and counter, the configuration, TIME_US and the agenda
stay, and that whole commands waiting untaken are dropped as well as partial ones, is the model's choice too
(notes/assumptions/13.md). -/
def Obligations.ResetGivesResetValues : Prop :=
  ResetValues State.reset ∧ CollabResetValues State.reset ∧
    ∀ (s : State) (ag : List Event), s.agenda = .reset :: ag →
      ∃ t, step s = .next t ∧ ResetValues t ∧ CollabResetValues t ∧
        (∀ b, (t.bankEnv b).room = (s.bankEnv b).room ∧ (t.bankEnv b).loadOff = (s.bankEnv b).loadOff) ∧
        t.collab.answers = s.collab.answers ∧ t.collab.draws = s.collab.draws ∧
        t.agenda = ag ∧ t.cfg = s.cfg ∧ t.timeUs = s.timeUs

/-- The configuration is never changed (notes/assumptions/1.md). -/
def Obligations.StepKeepsConfiguration : Prop := ∀ s t : State, step s = .next t → t.cfg = s.cfg

/-- The reference order of R233, where the agenda leaves the choice to the block (notes/assumptions/4.md): the pending
capture with the lowest global index; else the due watchdog with the lowest handle; else the oldest command received,
run, or refused when illegal (that HOST comes before ARB and the stimulus stream is the model's choice,
notes/assumptions/4.md). With none of them nothing happens (the model's choice, notes/assumptions/24.md). -/
def Obligations.ReferenceServiceOrder : Prop :=
  ∀ s : State, Running s → s.agenda = [] → HostIdle s → s.cfg.irqOrder = [0, 1, 2, 3, 4, 5, 6, 7] →
    (∀ i : Slot, pendingSlot s i = true → (∀ j, j < i → pendingSlot s j = false) →
      step s = .next (serveCapture (bankOf i) (chanOf i) s)) ∧
    ((∀ i, pendingSlot s i = false) →
      (∀ sid : Sid, expiryEnabled sid s = true → (∀ x, x < sid → expiryEnabled x s = false) →
        step s = .next (onExpiry sid s)) ∧
      ((∀ sid, expiryEnabled sid s = false) →
        (∀ (p : Port) (i : Instr) (rest : List Word), (∀ q : Port, q.rank < p.rank → commandReady q s = false) →
          decode (s.rxAt p) = .command i rest → step s = exec i (setPort p (setRx p rest s))) ∧
        (∀ (p : Port) (why : Illegal) (rest : List Word), (∀ q : Port, q.rank < p.rank → commandReady q s = false) →
          decode (s.rxAt p) = .illegal why rest →
            step s = .next (answering (setPort p (setRx p rest s)) true [1])) ∧
        ((∀ p, commandReady p s = false) → step s = .next s)))

/-! ## Refusals (30_encoding.md R92, R97; 41_session_host.md R140) -/

/-- R92: an operation on a port that does not accept it is refused with RF_PORT, and nothing else changes (for the ARB
port and the stimulus stream, where R92 is silent on some operations, the model's choice: notes/assumptions/9.md). -/
def Obligations.WrongPortRefused : Prop :=
  ∀ (i : Instr) (s : State), Running s → acceptedOn i s.port = false → exec i s = .next (answering s true [2])

/-- R140 and R97: on the HOST port the five session operations check the handle and then the control state, refuse with
RF_SID or RF_STATE, and change nothing else. -/
def Obligations.SessionChecksInOrder : Prop :=
  ∀ (i : Instr) (sid : Sid) (allowed : List Fsm) (s : State),
    hostOperation i = some (sid, allowed) → Running s → s.port = .host →
    (s.cfg.nSess ≤ sid.toNat → exec i s = .next (answering s true [3])) ∧
    (sid.toNat < s.cfg.nSess → (s.session sid).fsm ∉ allowed → exec i s = .next (answering s true [4]))

/-! ## CONSTRUCT (41_session_host.md section 2) -/

/-- R141, with the checks of R140: CONSTRUCT is refused for a unit that does not exist and for one that is not Absent;
it refuses a timeout whose count does not fit 32 bits with RF_RANGE; otherwise it writes the four fields, keeps the
others, changes nothing else, and answers 0. -/
def Obligations.ConstructResult : Prop :=
  ∀ (s : State) (sid : Sid) (pin : Word) (timeout : Word64), Running s → s.port = .host →
    (s.cfg.nSess ≤ sid.toNat → exec (.construct sid pin timeout) s = .next (answering s true [3])) ∧
    (sid.toNat < s.cfg.nSess → (s.session sid).fsm ≠ .absent →
      exec (.construct sid pin timeout) s = .next (answering s true [4])) ∧
    (sid.toNat < s.cfg.nSess → (s.session sid).fsm = .absent →
      (2 ^ 32 ≤ timeout.toNat * s.cfg.clockRate / 2000000 →
        exec (.construct sid pin timeout) s = .next (answering s true [5])) ∧
      (timeout.toNat * s.cfg.clockRate / 2000000 < 2 ^ 32 →
        exec (.construct sid pin timeout) s = .next (answering (setSession sid
          { s.session sid with
            basePin := pin, timeoutUs := timeout
            maxCounter := BitVec.ofNat 32 (timeout.toNat * s.cfg.clockRate / 2000000), fsm := .uninitialized } s)
          false [0])))

/-- R271: with 32-bit counts and CLOCK_RATE = 125,000,000 the largest accepted `timeout_us` is 68,719,476. -/
def Obligations.LargestAcceptedTimeout : Prop :=
  ∀ (s : State) (sid : Sid) (pin : Word) (timeout : Word64), HostReady sid s → (s.session sid).fsm = .absent →
    s.cfg.clockRate = 125000000 →
      (exec (.construct sid pin timeout) s = .next (answering s true [5]) ↔ 68719476 < timeout.toNat)

/-! ## INIT and `allocate` (41_session_host.md section 3, 40_arbiter.md) -/

/-- R144, with the checks of R140: INIT is refused for a unit that does not exist and for one that is not
Uninitialized; else it asks `allocate`; on success it makes the seven calls in order after those of `allocate`, binds
the slot, starts the watchdog, arms the channel, marks the session Initialized, answers 0 and touches nothing else; on
failure it answers ERR_EXHAUSTED in the state `allocate` left; a fatal fault inside `allocate` ends it with no
answer. -/
def Obligations.InitResult : Prop :=
  ∀ (s : State) (sid : Sid), Running s → s.port = .host →
    (s.cfg.nSess ≤ sid.toNat → exec (.init sid) s = .next (answering s true [3])) ∧
    (sid.toNat < s.cfg.nSess → (s.session sid).fsm ≠ .uninitialized →
      exec (.init sid) s = .next (answering s true [4])) ∧
    (sid.toNat < s.cfg.nSess → (s.session sid).fsm = .uninitialized →
      match allocate sid none s with
      | .fail s1 => exec (.init sid) s = .next (answering s1 false [s.cfg.errExhausted])
      | .fatal s1 => exec (.init sid) s = .next s1
      | .ok b c off s1 =>
        ∃ t, exec (.init sid) s = .next t ∧
          t.session sid =
            { s.session sid with
              fsm := .initialized, bank := b, channel := c, offset := off
              wd := .pending (s.timeUs + (s.session sid).timeoutUs) } ∧
          (∀ x, x ≠ sid → t.session x = s.session x) ∧
          t.owner = s1.owner ∧ t.offset = s1.offset ∧ t.ownerAt (slot b c) = some sid ∧ t.offsetAt b = off ∧
          t.calls = s1.calls ++
            [.pinPulldown (s.session sid).basePin, .pinPulldown ((s.session sid).basePin + 1),
             .configure b c off (s.session sid).basePin, .enable b c, .clear b c, .enableLines b 0b1111,
             .arm b c (s.session sid).maxCounter] ∧
          t.chan (slot b c) =
            { s1.chan (slot b c) with
              configured := some (off, (s.session sid).basePin), enabled := true, fifo := []
              armed := some (s.session sid).maxCounter } ∧
          (∀ i, i ≠ slot b c → t.chan i = s1.chan i) ∧
          t.bankEnv b = { s1.bankEnv b with lineEn := (s1.bankEnv b).lineEn ||| 0b1111 } ∧
          (∀ b', b' ≠ b → t.bankEnv b' = s1.bankEnv b') ∧
          t.collab.answers = s1.collab.answers ∧ t.collab.draws = s1.collab.draws ∧
          t.responses = s.responses ++ [⟨.host, false, [0]⟩] ∧
          t.fault = s.fault ∧ t.timeUs = s.timeUs ∧ t.cfg = s.cfg ∧ t.port = s.port ∧ t.rx = s.rx ∧
          t.agenda = s.agenda)

/-- R145: an INIT whose `allocate` fails answers ERR_EXHAUSTED and changes no session, no table, nothing in the
collaborator but draws of an open one, starts no watchdog, and makes no call but the arbiter's questions. -/
def Obligations.FailedInitChangesNothing : Prop :=
  ∀ (s s1 : State) (sid : Sid), HostReady sid s → (s.session sid).fsm = .uninitialized →
    allocate sid none s = .fail s1 →
      ∃ t cs, exec (.init sid) s = .next t ∧ t.responses = s.responses ++ [⟨.host, false, [s.cfg.errExhausted]⟩] ∧
        t.sessions = s.sessions ∧ t.owner = s.owner ∧ t.offset = s.offset ∧ t.fault = s.fault ∧
        (∀ i, t.chan i = s.chan i) ∧ (∀ b, t.bankEnv b = s.bankEnv b) ∧
        t.calls = s.calls ++ cs ∧ (∀ call ∈ cs, ∃ b, call = .tryReserve b none ∨ ∃ room, call = .canLoad b room) ∧
        t.timeUs = s.timeUs ∧ t.cfg = s.cfg ∧ t.port = s.port ∧ t.rx = s.rx ∧ t.agenda = s.agenda

/-- R118's side effect and R125(a): a successful `allocate` claims exactly one slot, which was empty; it loads the
program, once, exactly when the bank was not in use, which then has room, and records the offset then; it reserves that
one channel; it writes no session, FAULT or response and nothing else of the state but the record of its calls and the
draws of an open collaborator. -/
def Obligations.AllocateClaimsOneFreeSlot : Prop :=
  ∀ (s s1 : State) (sid : Sid) (pref : Option Bank) (b : Bank) (c : Chan) (off : Word),
    allocate sid pref s = .ok b c off s1 →
      s.ownerAt (slot b c) = none ∧
      (∀ i, s1.ownerAt i = if i = slot b c then some sid else s.ownerAt i) ∧
      off = s1.offsetAt b ∧
      (∀ b', s1.offsetAt b' = if b' = b ∧ bankInUse b s = false then (s.bankEnv b).loadOff else s.offsetAt b') ∧
      (bankInUse b s = false → (s.bankEnv b).room = true) ∧
      (∀ b', loadCount b' s1 = loadCount b' s + if b' = b ∧ bankInUse b s = false then 1 else 0) ∧
      (∀ i, s1.chan i = if i = slot b c then { s.chan i with reserved := true } else s.chan i) ∧
      (∀ b', s1.bankEnv b' =
        if b' = b ∧ bankInUse b s = false then { s.bankEnv b' with resident := true } else s.bankEnv b') ∧
      s1.sessions = s.sessions ∧ s1.fault = s.fault ∧ s1.timeUs = s.timeUs ∧ s1.responses = s.responses ∧
      s1.cfg = s.cfg ∧ s1.port = s.port ∧ s1.rx = s.rx ∧ s1.agenda = s.agenda

/-- R120: a failing `allocate` writes no OWNER and no OFFSET entry, calls no `program_load`, leaves no channel reserved
and changes nothing else but the record of its calls and the draws of an open collaborator. -/
def Obligations.AllocateFailureWritesNothing : Prop :=
  ∀ (s s1 : State) (sid : Sid) (pref : Option Bank), allocate sid pref s = .fail s1 →
    s1.owner = s.owner ∧ s1.offset = s.offset ∧ (∀ b, loadCount b s1 = loadCount b s) ∧
    (∀ i, s1.chan i = s.chan i) ∧ (∀ b, s1.bankEnv b = s.bankEnv b) ∧ s1.sessions = s.sessions ∧
    s1.fault = s.fault ∧ s1.timeUs = s.timeUs ∧ s1.responses = s.responses ∧ s1.cfg = s.cfg ∧ s1.port = s.port ∧
    s1.rx = s.rx ∧ s1.agenda = s.agenda

/-- The whole policy of R118 in the closed system (R192, R193): which slot and which offset `allocate` gives in each
case, and exactly when it fails (R120). The bank tried first is R114's: the argument when its bank is in use, which it
must be to count, else the lower-numbered bank in use, else none. -/
def Obligations.ClosedAllocationPolicy : Prop :=
  ∀ (s : State) (sid : Sid) (pref : Option Bank), ClosedInv s →
    (∀ p, Prefers pref s p →
      (∀ c cs, freeChans p s = c :: cs → ∃ s1, allocate sid pref s = .ok p c (s.offsetAt p) s1) ∧
      (freeChans p s = [] →
        (bankInUse (otherBank p) s = true →
          (∀ c cs, freeChans (otherBank p) s = c :: cs →
            ∃ s1, allocate sid pref s = .ok (otherBank p) c (s.offsetAt (otherBank p)) s1) ∧
          (freeChans (otherBank p) s = [] → ∃ s1, allocate sid pref s = .fail s1)) ∧
        (bankInUse (otherBank p) s = false →
          ((s.bankEnv (otherBank p)).room = true →
            ∃ s1, allocate sid pref s = .ok (otherBank p) 0 (s.bankEnv (otherBank p)).loadOff s1) ∧
          ((s.bankEnv (otherBank p)).room = false → ∃ s1, allocate sid pref s = .fail s1)))) ∧
    (bankInUse 0 s = false → bankInUse 1 s = false →
      ((s.bankEnv 0).room = true → ∃ s1, allocate sid pref s = .ok 0 0 (s.bankEnv 0).loadOff s1) ∧
      ((s.bankEnv 0).room = false → (s.bankEnv 1).room = true →
        ∃ s1, allocate sid pref s = .ok 1 0 (s.bankEnv 1).loadOff s1) ∧
      ((s.bankEnv 0).room = false → (s.bankEnv 1).room = false → ∃ s1, allocate sid pref s = .fail s1))

/-- R125(d): in the closed system with room in both banks, when slots 0 to k-1 are owned and the others free, INIT gives
its session slot k, loading the program exactly when k is 0 or 4. -/
def Obligations.SlotsAreGivenInOrder : Prop :=
  ∀ (s : State) (sid : Sid) (k : Slot), ClosedInv s → HostReady sid s → (s.session sid).fsm = .uninitialized →
    (∀ b, (s.bankEnv b).room = true) → (∀ i : Slot, (s.ownerAt i).isSome = decide (i < k)) →
      ∃ t, exec (.init sid) s = .next t ∧ t.ownerAt k = some sid ∧ (t.session sid).fsm = .initialized ∧
        (t.session sid).bank = bankOf k ∧ (t.session sid).channel = chanOf k ∧
        (t.session sid).offset = (if k = 0 ∨ k = 4 then (s.bankEnv (bankOf k)).loadOff else s.offsetAt (bankOf k)) ∧
        (∀ b, loadCount b t = loadCount b s + if b = bankOf k ∧ (k = 0 ∨ k = 4) then 1 else 0) ∧
        t.responses = s.responses ++ [⟨.host, false, [0]⟩]

/-- R125(b): in the closed system, once all eight slots are owned, INIT answers ChannelExhausted and the owners stay. -/
def Obligations.NinthInitIsExhausted : Prop :=
  ∀ (s : State) (sid : Sid), ClosedInv s → HostReady sid s → (s.session sid).fsm = .uninitialized →
    (∀ i : Slot, (s.ownerAt i).isSome = true) →
      ∃ t, exec (.init sid) s = .next t ∧ t.responses = s.responses ++ [⟨.host, false, [s.cfg.errExhausted]⟩] ∧
        t.owner = s.owner ∧ t.sessions = s.sessions ∧
        t.calls = s.calls ++ [.tryReserve 0 none, .tryReserve 1 none]

/-- R115: whichever bank is asked, an answer outside 0 to 3 or one that is owned makes `reserve` raise F_ARBITRATION.
When `allocate` ends in a fatal fault it was such an answer of one bank, asked after questions that changed nothing, FAULT
holds code 4, no table, session or response is written, and INIT, ALLOC and ALLOC.P end there with no answer. In the open
system it happens for the preferred bank, for the other bank, in use or fresh, and for a first bank (the answers are
those scripted in the state, notes/assumptions/11.md). -/
def Obligations.BadReservationIsFatal : Prop :=
  (∀ (s : State) (b : Bank) (n : Nat), reserveAnswer b s = some n → badAnswer b n s →
    ∃ s1, reserve b s = .fatal s1 ∧ ArbitrationFault b n [] s s1) ∧
  (∀ (s s1 : State) (sid : Sid) (pref : Option Bank), allocate sid pref s = .fatal s1 →
    (∃ b n cs, badAnswer b n s ∧ ArbitrationFault b n cs s s1 ∧
      ∀ call ∈ cs, ∃ b', call = .tryReserve b' none ∨ ∃ room, call = .canLoad b' room) ∧
    (pref = none → HostReady sid s → (s.session sid).fsm = .uninitialized → exec (.init sid) s = .next s1) ∧
    (Running s → s.port = .arb → sid.toNat < s.cfg.nSess →
      (pref = none → exec (.alloc sid) s = .next s1) ∧ (∀ p, pref = some p → exec (.allocP sid p) s = .next s1))) ∧
  (∀ (s : State) (sid : Sid) (pref : Option Bank) (n : Nat) (more : List (Option Nat)), s.cfg.collabClosed = false →
    (∀ p, preferred pref s = some p →
      (s.collab.answers = some n :: more → badAnswer p n s →
        ∃ s1, allocate sid pref s = .fatal s1 ∧ ArbitrationFault p n [] s s1) ∧
      (s.collab.answers = none :: some n :: more → badAnswer (otherBank p) n s →
        (bankInUse (otherBank p) s = true →
          ∃ s1, allocate sid pref s = .fatal s1 ∧ ArbitrationFault (otherBank p) n [.tryReserve p none] s s1) ∧
        (bankInUse (otherBank p) s = false → (s.bankEnv (otherBank p)).room = true →
          ∃ s1, allocate sid pref s = .fatal s1 ∧
            ArbitrationFault (otherBank p) n [.tryReserve p none, .canLoad (otherBank p) true] s s1))) ∧
    (preferred pref s = none →
      (s.collab.answers = some n :: more → (s.bankEnv 0).room = true → badAnswer 0 n s →
        ∃ s1, allocate sid pref s = .fatal s1 ∧ ArbitrationFault 0 n [.canLoad 0 true] s s1) ∧
      (s.collab.answers = some n :: more → (s.bankEnv 0).room = false → (s.bankEnv 1).room = true → badAnswer 1 n s →
        ∃ s1, allocate sid pref s = .fatal s1 ∧ ArbitrationFault 1 n [.canLoad 0 false, .canLoad 1 true] s s1) ∧
      (s.collab.answers = none :: some n :: more → (s.bankEnv 0).room = true → (s.bankEnv 1).room = true →
        badAnswer 1 n s →
          ∃ s1, allocate sid pref s = .fatal s1 ∧
            ArbitrationFault 1 n [.canLoad 0 true, .tryReserve 0 none, .canLoad 1 true] s s1)))

/-- R119: ALLOC and ALLOC.P on the ARB port answer the claimed slot's global index and OFFSET[bank], or the failure
words, in the state `allocate` left; a fatal fault gives no answer; on the HOST port and for a unit that does not exist
they are refused. -/
def Obligations.AllocCommandResult : Prop :=
  ∀ (s : State) (sid : Sid), Running s →
    ∀ (i : Instr) (pref : Option Bank),
      ((i = .alloc sid ∧ pref = none) ∨ ∃ p, i = .allocP sid p ∧ pref = some p) →
      (s.port = .host → exec i s = .next (answering s true [2])) ∧
      (s.port = .arb → s.cfg.nSess ≤ sid.toNat → exec i s = .next (answering s true [3])) ∧
      (s.port = .arb → sid.toNat < s.cfg.nSess →
        match allocate sid pref s with
        | .ok b c off s1 =>
          exec i s = .next (answering s1 false [BitVec.ofNat 32 (b.toNat * 4 + c.toNat), off]) ∧ off = s1.offsetAt b
        | .fail s1 => exec i s = .next (answering s1 false [0xFFFFFFFF, 0])
        | .fatal s1 => exec i s = .next s1)

/-! ## Queries and accessors: exact results, nothing else changed (R66, R151) -/

/-- R121: RESOLVE answers the owner of `slot(b, c)`, or 0xFFFFFFFF, and changes nothing. -/
def Obligations.ResolveAnswersOwner : Prop :=
  ∀ (s : State) (b : Bank) (c : Chan), Running s → (s.port = .host ∨ s.port = .arb) →
    (∀ sid, s.ownerAt (slot b c) = some sid → exec (.resolve b c) s = .next (answering s false [sid.setWidth 32])) ∧
    (s.ownerAt (slot b c) = none → exec (.resolve b c) s = .next (answering s false [0xFFFFFFFF]))

/-- R122, R112: BANKUSE answers 1 exactly when a slot of the bank is owned, else 0, and changes nothing. -/
def Obligations.BankuseAnswersInUse : Prop :=
  ∀ (s : State) (b : Bank), Running s → (s.port = .host ∨ s.port = .arb) →
    ((∃ c sid, s.ownerAt (slot b c) = some sid) → exec (.bankuse b) s = .next (answering s false [1])) ∧
    ((∀ c, s.ownerAt (slot b c) = none) → exec (.bankuse b) s = .next (answering s false [0]))

/-- R123: PROGOFF answers OFFSET[b] and changes nothing. -/
def Obligations.ProgoffAnswersOffset : Prop :=
  ∀ (s : State) (b : Bank), Running s → (s.port = .host ∨ s.port = .arb) →
    exec (.progoff b) s = .next (answering s false [s.offsetAt b])

/-- R148, with the checks of R140: GETDIR answers the direction as 1 or 0 and changes nothing; it is refused for a unit
that does not exist and for an Absent one. -/
def Obligations.GetdirAnswersDirection : Prop :=
  ∀ (s : State) (sid : Sid), Running s → s.port = .host →
    (s.cfg.nSess ≤ sid.toNat → exec (.getdir sid) s = .next (answering s true [3])) ∧
    (sid.toNat < s.cfg.nSess → (s.session sid).fsm = .absent → exec (.getdir sid) s = .next (answering s true [4])) ∧
    (sid.toNat < s.cfg.nSess → (s.session sid).fsm ≠ .absent →
      exec (.getdir sid) s = .next (answering s false [if (s.session sid).direction then 1 else 0]))

/-- R149, with the checks of R140: GETPER answers the two words of `bits64(period_us)`, low word first, and changes
nothing; it is refused for a unit that does not exist and for an Absent one. -/
def Obligations.GetperAnswersPeriod : Prop :=
  ∀ (s : State) (sid : Sid), Running s → s.port = .host →
    (s.cfg.nSess ≤ sid.toNat → exec (.getper sid) s = .next (answering s true [3])) ∧
    (sid.toNat < s.cfg.nSess → (s.session sid).fsm = .absent → exec (.getper sid) s = .next (answering s true [4])) ∧
    (sid.toNat < s.cfg.nSess → (s.session sid).fsm ≠ .absent →
      exec (.getper sid) s = .next (answering s false
        [(s.session sid).periodUs.extractLsb' 0 32, (s.session sid).periodUs.extractLsb' 32 32]))

/-- R150, with the checks of R140: GETBANK answers the bank of an Initialized session, else 0xFFFFFFFF, and changes
nothing; it is refused for a unit that does not exist and for an Absent one. -/
def Obligations.GetbankAnswersBank : Prop :=
  ∀ (s : State) (sid : Sid), Running s → s.port = .host →
    (s.cfg.nSess ≤ sid.toNat → exec (.getbank sid) s = .next (answering s true [3])) ∧
    (sid.toNat < s.cfg.nSess → (s.session sid).fsm = .absent → exec (.getbank sid) s = .next (answering s true [4])) ∧
    (sid.toNat < s.cfg.nSess → (s.session sid).fsm = .initialized →
      exec (.getbank sid) s = .next (answering s false [(s.session sid).bank.setWidth 32])) ∧
    (sid.toNat < s.cfg.nSess → (s.session sid).fsm = .uninitialized →
      exec (.getbank sid) s = .next (answering s false [0xFFFFFFFF]))

/-! ## Captures (42_session_events.md section 1, 60_exceptions.md section 3) -/

/-- R172, R173, R174: a served capture. The slot owned and the line enabled, the two oldest words of the channel are read,
the negation of bit 0 of the first is latched as direction, `f64((M - r) * 2 * US_PER_S / CLOCK_RATE)` is written for the
second, the flag is cleared, the channel rearmed with `max_counter`, the watchdog restarted, and nothing else changes. It
is so for EV_CAPTURE, whose own two words come last in the queue (R94, R203); for a flagged channel that the
demultiplexer takes (R231); and for one that an idle block, left to itself, comes to first, before any due watchdog, in
the reference order of R233, which the model follows when the agenda is empty (notes/assumptions/4.md). -/
def Obligations.CaptureResult : Prop :=
  ∀ (s : State) (sid : Sid) (b : Bank) (c : Chan) (v1 v2 : Word) (rest : List Word),
    Running s → s.ownerAt (slot b c) = some sid → (s.session sid).bank = b → (s.session sid).channel = c →
    (s.bankEnv b).lineEn.getLsbD c.toNat = true → v2 ≤ (s.session sid).maxCounter →
      (∀ d r, s.port = .stimulus → (s.chan (slot b c)).fifo ++ [d, r] = v1 :: v2 :: rest →
        ∃ t, exec (.evCapture b c d r) s = .next t ∧ CaptureServed sid b c v1 v2 rest s.timeUs s t) ∧
      ((s.chan (slot b c)).irqFlag = true → (s.chan (slot b c)).fifo = v1 :: v2 :: rest → HostIdle s →
        (∀ ag, s.agenda = .serve b c :: ag →
          ∃ t, step s = .next t ∧
            CaptureServed sid b c v1 v2 rest (s.chan (slot b c)).flagTime (setAgenda ag s) t) ∧
        (s.agenda = [] → s.cfg.irqOrder.find? (pendingSlot s) = some (slot b c) →
          ∃ t, step s = .next t ∧ CaptureServed sid b c v1 v2 rest (s.chan (slot b c)).flagTime s t))

/-- R179: direction and period after a capture depend on bit 0 of the first word, the second word and `max_counter`
alone, not on what the session held before, the time, or the watchdog. -/
def Obligations.CaptureIsDeterminedByItsWords : Prop :=
  ∀ (s s' : State) (x x' : Sid) (v1 v2 v1' v2' : Word) (rest rest' : List Word),
    s.cfg = s'.cfg → (s.session x).maxCounter = (s'.session x').maxCounter →
    (s.chan (slot (s.session x).bank (s.session x).channel)).fifo = v1 :: v2 :: rest →
    (s'.chan (slot (s'.session x').bank (s'.session x').channel)).fifo = v1' :: v2' :: rest' →
    v1.getLsbD 0 = v1'.getLsbD 0 → v2 = v2' → v2 ≤ (s.session x).maxCounter →
      ((onCapture x s).session x).direction = ((onCapture x' s').session x').direction ∧
      ((onCapture x s).session x).periodUs = ((onCapture x' s').session x').periodUs

/-- R181: a count above `max_counter` raises F_RANGE: the watchdog is cancelled and the direction written, the period
kept, the flag not cleared, the channel not rearmed, and nothing later happens (R224). It is so for EV_CAPTURE, for a
flagged channel that the demultiplexer takes (R231), and for one that an idle block, left to itself, comes to first
(R233's reference order when the agenda is empty, notes/assumptions/4.md). -/
def Obligations.CountAboveMaxIsFatal : Prop :=
  ∀ (s : State) (sid : Sid) (b : Bank) (c : Chan) (v1 v2 : Word) (rest : List Word),
    Running s → s.ownerAt (slot b c) = some sid → (s.session sid).bank = b → (s.session sid).channel = c →
    (s.bankEnv b).lineEn.getLsbD c.toNat = true → (s.session sid).maxCounter < v2 →
      let u := { s.session sid with direction := !v1.getLsbD 0, wd := .idle }
      let reads := [.readValue b c (some v1), .readValue b c (some v2)]
      (∀ d r, s.port = .stimulus → (s.chan (slot b c)).fifo ++ [d, r] = v1 :: v2 :: rest →
        ∃ t, exec (.evCapture b c d r) s = .next t ∧
          CaptureCut 2 sid b c u
            { s.chan (slot b c) with fifo := rest, armed := none, irqFlag := true, flagTime := s.timeUs } reads s t) ∧
      ((s.chan (slot b c)).irqFlag = true → (s.chan (slot b c)).fifo = v1 :: v2 :: rest → HostIdle s →
        (∀ ag, s.agenda = .serve b c :: ag →
          ∃ t, step s = .next t ∧
            CaptureCut 2 sid b c u { s.chan (slot b c) with fifo := rest } reads (setAgenda ag s) t) ∧
        (s.agenda = [] → s.cfg.irqOrder.find? (pendingSlot s) = some (slot b c) →
          ∃ t, step s = .next t ∧ CaptureCut 2 sid b c u { s.chan (slot b c) with fifo := rest } reads s t))

/-- R200 and R224: serving a pending channel with no value to read raises F_EMPTY with only the watchdog cancelled; with
one value to read, with the direction written and that value taken as well. Nothing later happens: the flag is not
cleared, the channel not rearmed, no further call is made. (That the read without an answer is on the record of calls is
the model's choice, notes/assumptions/23.md.) It is so where the demultiplexer takes the channel (R231), and where an idle
block, left to itself, comes to it first (R233's reference order when the agenda is empty, notes/assumptions/4.md);
EV_CAPTURE always leaves two values to read. -/
def Obligations.ReadWithNothingToReadIsFatal : Prop :=
  ∀ (s : State) (sid : Sid) (b : Bank) (c : Chan),
    Running s → HostIdle s → pending b c s = true → s.ownerAt (slot b c) = some sid →
    (s.session sid).bank = b → (s.session sid).channel = c →
      let noWord := CaptureCut 3 sid b c { s.session sid with wd := .idle } (s.chan (slot b c)) [.readValue b c none]
      let oneWord (v1 : Word) :=
        CaptureCut 3 sid b c { s.session sid with direction := !v1.getLsbD 0, wd := .idle }
          { s.chan (slot b c) with fifo := [] } [.readValue b c (some v1), .readValue b c none]
      (∀ ag, s.agenda = .serve b c :: ag →
        ((s.chan (slot b c)).fifo = [] → ∃ t, step s = .next t ∧ noWord (setAgenda ag s) t) ∧
        (∀ v1, (s.chan (slot b c)).fifo = [v1] → ∃ t, step s = .next t ∧ oneWord v1 (setAgenda ag s) t)) ∧
      (s.agenda = [] → s.cfg.irqOrder.find? (pendingSlot s) = some (slot b c) →
        ((s.chan (slot b c)).fifo = [] → ∃ t, step s = .next t ∧ noWord s t) ∧
        (∀ v1, (s.chan (slot b c)).fifo = [v1] → ∃ t, step s = .next t ∧ oneWord v1 s t))

/-- R232: a pending capture on a slot no session owns raises F_UNRESOLVED when it is served, and FAULT is all that the
service changes: the flag is not cleared, no session is touched, no call is made. It is so for EV_CAPTURE, after the
capture itself (R94, R203), for a flagged channel that the demultiplexer takes (R231), and for one that an idle block,
left to itself, comes to first (R233's reference order when the agenda is empty, notes/assumptions/4.md). -/
def Obligations.UnownedCaptureIsFatal : Prop :=
  ∀ (s : State) (b : Bank) (c : Chan),
    Running s → s.ownerAt (slot b c) = none → (s.bankEnv b).lineEn.getLsbD c.toNat = true →
      (∀ d r, s.port = .stimulus →
        ∃ k, exec (.evCapture b c d r) s = .next { s with collab := k, fault := ⟨true, 1⟩ } ∧
          CaptureArrived b c d r s k) ∧
      ((s.chan (slot b c)).irqFlag = true → HostIdle s →
        (∀ ag, s.agenda = .serve b c :: ag → step s = .next { s with agenda := ag, fault := ⟨true, 1⟩ }) ∧
        (s.agenda = [] → s.cfg.irqOrder.find? (pendingSlot s) = some (slot b c) →
          step s = .next { s with fault := ⟨true, 1⟩ }))

/-- R203 and R228. A capture of the collaborator, its interrupt not served yet, appends its two words, disarms the channel
and raises its flag, and changes nothing else; it happens on a halted or waiting block as well (notes/assumptions/17.md).
A capture that EV_CAPTURE makes on a line that is not enabled is not pending: nothing is served, no fault is raised, and
only the channel changes (notes/assumptions/10.md). -/
def Obligations.DisabledLineIsNotServed : Prop :=
  (∀ (s : State) (b : Bank) (c : Chan) (d r : Word) (ag : List Event), s.agenda = .capture b c d r :: ag →
    ∃ k, step s = .next { s with agenda := ag, collab := k } ∧
      k.chan (slot b c) =
        { s.chan (slot b c) with
          fifo := (s.chan (slot b c)).fifo ++ [d, r], armed := none, irqFlag := true, flagTime := s.timeUs } ∧
      (∀ i, i ≠ slot b c → k.chan i = s.chan i) ∧ (∀ b', k.bank b' = s.bankEnv b') ∧
      k.answers = s.collab.answers ∧ k.draws = s.collab.draws) ∧
  ∀ (s : State) (b : Bank) (c : Chan) (d r : Word),
    Running s → s.port = .stimulus → (s.bankEnv b).lineEn.getLsbD c.toNat = false →
      ∃ t, exec (.evCapture b c d r) s = .next t ∧
        t.chan (slot b c) =
          { s.chan (slot b c) with
            fifo := (s.chan (slot b c)).fifo ++ [d, r], armed := none, irqFlag := true, flagTime := s.timeUs } ∧
        (∀ i, i ≠ slot b c → t.chan i = s.chan i) ∧ (∀ b', t.bankEnv b' = s.bankEnv b') ∧
        t.sessions = s.sessions ∧ t.owner = s.owner ∧ t.offset = s.offset ∧ t.fault = s.fault ∧ t.calls = s.calls ∧
        t.responses = s.responses ∧ t.timeUs = s.timeUs ∧ t.cfg = s.cfg ∧ t.port = s.port ∧ t.rx = s.rx ∧
        t.agenda = s.agenda ∧ t.collab.answers = s.collab.answers ∧ t.collab.draws = s.collab.draws

/-! ## The watchdog and the time base (42_session_events.md section 2, 60_exceptions.md section 5) -/

/-- R175: a served expiry sets the period to +0.0 and the watchdog idle, and changes nothing else (R176): not the
direction, not the channel, no call. It is enabled when the deadline is reached and no capture of the session became
ready at that very instant (R238, R234(c)); that a capture pending since another instant leaves it enabled is the model's
choice (notes/assumptions/5.md). -/
def Obligations.ExpiryResult : Prop :=
  ∀ (s : State) (sid : Sid) (deadline : Word64),
    Running s → s.port = .stimulus → sid.toNat < s.cfg.nSess →
    (s.session sid).wd = .pending deadline → deadline ≤ s.timeUs →
    (pending (s.session sid).bank (s.session sid).channel s = false ∨
      (s.chan (slot (s.session sid).bank (s.session sid).channel)).flagTime ≠ deadline) →
      exec (.evWdexp sid) s = .next (setSession sid { s.session sid with periodUs := 0, wd := .idle } s)

/-- R94 and R238: an EV_WDEXP whose watchdog is idle or not yet due is ill-formed and rejected; so is one for a unit that
does not exist, and one whose session has a capture pending since the very instant of the deadline (the model's choices,
notes/assumptions/5.md, 8.md and 21.md). -/
def Obligations.ExpiryNotEnabledIsRejected : Prop :=
  ∀ (s : State) (sid : Sid), Running s → s.port = .stimulus →
    ((s.session sid).wd = .idle ∨ s.cfg.nSess ≤ sid.toNat ∨
      (∃ deadline, (s.session sid).wd = .pending deadline ∧ s.timeUs < deadline) ∨
      (∃ deadline, (s.session sid).wd = .pending deadline ∧
        pending (s.session sid).bank (s.session sid).channel s = true ∧
        (s.chan (slot (s.session sid).bank (s.session sid).channel)).flagTime = deadline)) →
      exec (.evWdexp sid) s = .refused .stimulusIllFormed

/-- R234 and R238: after a served capture no expiry of that session is enabled before `TIME_US + timeout_us`, whatever
time before that it becomes; the cancelled period never expires. -/
def Obligations.CaptureCancelsTheExpiry : Prop :=
  ∀ (s t : State) (sid : Sid) (b : Bank) (c : Chan) (d r : Word) (now : Word64),
    s.port = .stimulus → s.ownerAt (slot b c) = some sid →
    (s.bankEnv b).lineEn.getLsbD c.toNat = true →
    s.timeUs.toNat + (s.session sid).timeoutUs.toNat < 2 ^ 64 →
    exec (.evCapture b c d r) s = .next t →
    now.toNat < s.timeUs.toNat + (s.session sid).timeoutUs.toNat →
      expiryEnabled sid (setTime now t) = false

/-- R234(c): a capture that becomes ready at the very instant the deadline is reached leaves the expiry not enabled, so
the capture is served first (notes/assumptions/5.md). -/
def Obligations.SameInstantCaptureGoesFirst : Prop :=
  ∀ (s : State) (sid : Sid) (d r : Word) (ag : List Event),
    (s.session sid).wd = .pending s.timeUs →
    (s.bankEnv (s.session sid).bank).lineEn.getLsbD (s.session sid).channel.toNat = true →
    s.agenda = .capture (s.session sid).bank (s.session sid).channel d r :: ag →
      ∃ t, step s = .next t ∧ pending (s.session sid).bank (s.session sid).channel t = true ∧
        expiryEnabled sid t = false

/-- R240: EV_TIME sets TIME_US and nothing else, and only forwards; backwards it is rejected
(notes/assumptions/8.md). -/
def Obligations.TimeOnlyForwards : Prop :=
  ∀ (s : State) (now : Word64), Running s → s.port = .stimulus →
    (s.timeUs ≤ now → exec (.evTime now) s = .next { s with timeUs := now }) ∧
    (now < s.timeUs → exec (.evTime now) s = .refused .stimulusIllFormed)

/-- R240: no step at all, RESET included, takes TIME_US back. -/
def Obligations.StepNeverTurnsTimeBack : Prop := ∀ s t : State, step s = .next t → s.timeUs ≤ t.timeUs

/-! ## Whole-machine rules -/

/-- R20, R21, R245: no instruction but INIT, ALLOC and ALLOC.P writes OWNER or OFFSET. -/
def Obligations.OnlyAllocationWritesTheTables : Prop :=
  ∀ (i : Instr) (s t : State), exec i s = .next t →
    (∀ sid, i ≠ .init sid) → (∀ sid, i ≠ .alloc sid) → (∀ sid p, i ≠ .allocP sid p) →
      t.owner = s.owner ∧ t.offset = s.offset

/-- R245: nothing on the HOST port writes a period or a direction, or stops or moves a pending watchdog of an
Initialized session, or changes the time. -/
def Obligations.HostCannotWriteMeasurements : Prop :=
  ∀ (i : Instr) (s t : State), s.port = .host → exec i s = .next t →
    t.timeUs = s.timeUs ∧
    ∀ sid, (t.session sid).periodUs = (s.session sid).periodUs ∧
      (t.session sid).direction = (s.session sid).direction ∧
      ((s.session sid).fsm = .initialized → t.session sid = s.session sid)

/-- R22: "No session ever mutates another session's fields": a step that is no RESET changes no session but the one it is
about: the session CONSTRUCT, INIT or EV_WDEXP names, the owner of the slot whose capture is served, or the one whose
watchdog expires. Which of these comes next when the agenda is empty, captures before watchdogs before HOST, ARB and
stimulus words, is the model's choice (notes/assumptions/4.md; R233 does not order the ports). -/
def Obligations.StepChangesAtMostOneSession : Prop :=
  ∀ s t : State, step s = .next t → nextIsReset s = false →
    ∀ x, nextSession s ≠ some x → t.session x = s.session x

/-- R40: no step but RESET empties an OWNER entry or gives it to another session, takes a bank out of use or changes
the offset of a bank in use, or takes a session back to Absent or Uninitialized. -/
def Obligations.NothingIsTornDown : Prop :=
  ∀ s t : State, step s = .next t → nextIsReset s = false →
    (∀ i sid, s.ownerAt i = some sid → t.ownerAt i = some sid) ∧
    (∀ b, bankInUse b s = true → bankInUse b t = true ∧ t.offsetAt b = s.offsetAt b) ∧
    (∀ sid, (s.session sid).fsm = .initialized → (t.session sid).fsm = .initialized) ∧
    (∀ sid, (s.session sid).fsm = .uninitialized → (t.session sid).fsm ≠ .absent)

/-- R25, R26, R30, R37(d): a constructed session keeps its pin, timeout and `max_counter`, and an Initialized one its
bank, channel and offset, under every step but RESET. -/
def Obligations.SessionParametersAreFixed : Prop :=
  ∀ s t : State, step s = .next t → nextIsReset s = false →
    ∀ sid, (s.session sid).fsm ≠ .absent →
      (t.session sid).basePin = (s.session sid).basePin ∧ (t.session sid).timeoutUs = (s.session sid).timeoutUs ∧
      (t.session sid).maxCounter = (s.session sid).maxCounter ∧
      ((s.session sid).fsm = .initialized →
        (t.session sid).bank = (s.session sid).bank ∧ (t.session sid).channel = (s.session sid).channel ∧
        (t.session sid).offset = (s.session sid).offset)

/-! ## Invariants -/

/-- The invariants of R38 hold right after reset. -/
def Obligations.BlockInvAtReset : Prop := BlockInv State.reset

/-- R38 (e) to (j): every step from a state in which the invariants hold leaves one in which they hold. -/
def Obligations.BlockInvIsKept : Prop := ∀ s t : State, BlockInv s → step s = .next t → BlockInv t

/-- R38(f): an Initialized session owns exactly one slot. -/
def Obligations.InitializedOwnsExactlyOneSlot : Prop :=
  ∀ (s : State) (sid : Sid), BlockInv s → (s.session sid).fsm = .initialized →
    ∃ i, s.ownerAt i = some sid ∧ ∀ j, s.ownerAt j = some sid → j = i

/-- R38(k): at most eight sessions are Initialized. -/
def Obligations.AtMostEightInitialized : Prop :=
  ∀ s : State, BlockInv s → (allSids.filter fun sid => (s.session sid).initialized).length ≤ 8

/-- R39 (l), (m) hold right after reset, in the reference configuration. -/
def Obligations.ClosedInvAtReset : Prop := ClosedInv State.reset

/-- R39: in the closed system every step keeps "reserved exactly when owned" and "resident exactly when in use". -/
def Obligations.ClosedInvIsKept : Prop := ∀ s t : State, ClosedInv s → step s = .next t → ClosedInv t

/-- R125(c): from reset and under every step, the program has been loaded once into each bank in use and never into
another. -/
def Obligations.ProgramIsLoadedOncePerBank : Prop :=
  LoadInv State.reset ∧ ∀ s t : State, LoadInv s → step s = .next t → LoadInv t

/-- The contract invariant holds right after reset (R252). -/
def Obligations.ContractInvAtReset : Prop := ContractInv State.reset

/-- R207, R232, R181, R200, R115: in the closed system, with what comes next in the collaborator's contract, no step
raises a fatal fault, and the contract invariant is kept. -/
def Obligations.NoFatalFaultInContract : Prop :=
  ∀ s t : State, BlockInv s → ClosedInv s → ContractInv s → Running s → nextInContract s = true →
    step s = .next t → Running t ∧ ContractInv t

/-! ## The binary64 value of a period (00_scope.md R13, 42_session_events.md R180, R183) -/

/-- R13: `f64(Q)` is the binary64 value nearest to Q, and of two nearest ones the even one, for every Q whose rounded
value is finite (notes/assumptions/14.md). -/
def Obligations.F64IsNearest : Prop :=
  ∀ (num den : Nat) (x : Word64), 0 < den → f64 num den < 0x7FF0000000000000 → x < 0x7FF0000000000000 →
    distance num den (f64 num den) ≤ distance num den x ∧
    (distance num den (f64 num den) = distance num den x → x ≠ f64 num den → (f64 num den).getLsbD 0 = false)

/-- R183: `f64` is monotone: under the same `max_counter` a smaller remaining count never yields a smaller period. -/
def Obligations.PeriodIsMonotone : Prop :=
  ∀ (cfg : Config) (m r r' : Word), 0 < cfg.clockRate → r ≤ r' → r' ≤ m → periodOf cfg m r' ≤ periodOf cfg m r

/-- R183: with CLOCK_RATE = 125,000,000 and US_PER_S = 1,000,000 a period is +0.0, exactly when the count left is
`max_counter`, or a normal positive number from 0.016 up to `f64((2^32 - 1) * 0.016)`: never -0.0, subnormal, infinite
or NaN. -/
def Obligations.PeriodIsZeroOrNormal : Prop :=
  ∀ (cfg : Config) (m r : Word), cfg.clockRate = 125000000 → cfg.usPerS = 1000000 → r ≤ m →
    (periodOf cfg m r = 0 ↔ r = m) ∧
    (r ≠ m → 0x3F90624DD2F1A9FC ≤ periodOf cfg m r ∧ periodOf cfg m r ≤ f64 ((2 ^ 32 - 1) * 2) 125)

/-- R180: the corner values of a period with CLOCK_RATE = 125,000,000 and US_PER_S = 1,000,000: `r = M` gives +0.0;
`r = 0` gives `timeout_us` for an even timeout and 0.008 less for an odd one; `r = M - 1` gives 0.016. -/
def Obligations.PeriodCornerValues : Prop :=
  ∀ (cfg : Config) (timeout : Word64) (m : Word), cfg.clockRate = 125000000 → cfg.usPerS = 1000000 →
    m.toNat = maxCounterOf cfg timeout →
      periodOf cfg m m = 0 ∧
      (timeout.toNat % 2 = 0 → periodOf cfg m 0 = f64 timeout.toNat 1) ∧
      (timeout.toNat % 2 = 1 → periodOf cfg m 0 = f64 (125 * timeout.toNat - 1) 125) ∧
      (0 < m → periodOf cfg m (m - 1) = f64 2 125)
end

