-- ==== Sys2Proof/Laws/State.lean ====
section
/-! SUPPORT. One lemma per field per update of the state, and per accessor per update, so that no proof unfolds a record
update. -/

namespace Sys2Proof.Machine

variable (s : State)

/-! ## `setSession` -/

@[simp] theorem setSession_cfg (sid : Sid) (u : Session) : (setSession sid u s).cfg = s.cfg := rfl
@[simp] theorem setSession_owner (sid : Sid) (u : Session) : (setSession sid u s).owner = s.owner := rfl
@[simp] theorem setSession_offset (sid : Sid) (u : Session) : (setSession sid u s).offset = s.offset := rfl
@[simp] theorem setSession_sessions (sid : Sid) (u : Session) : (setSession sid u s).sessions = s.sessions.set sid.toNat u sid.isLt := rfl
@[simp] theorem setSession_fault (sid : Sid) (u : Session) : (setSession sid u s).fault = s.fault := rfl
@[simp] theorem setSession_collab (sid : Sid) (u : Session) : (setSession sid u s).collab = s.collab := rfl
@[simp] theorem setSession_timeUs (sid : Sid) (u : Session) : (setSession sid u s).timeUs = s.timeUs := rfl
@[simp] theorem setSession_port (sid : Sid) (u : Session) : (setSession sid u s).port = s.port := rfl
@[simp] theorem setSession_rx (sid : Sid) (u : Session) : (setSession sid u s).rx = s.rx := rfl
@[simp] theorem setSession_agenda (sid : Sid) (u : Session) : (setSession sid u s).agenda = s.agenda := rfl
@[simp] theorem setSession_calls (sid : Sid) (u : Session) : (setSession sid u s).calls = s.calls := rfl
@[simp] theorem setSession_responses (sid : Sid) (u : Session) : (setSession sid u s).responses = s.responses := rfl
@[simp] theorem setSession_ownerAt (sid : Sid) (u : Session) (j : Slot) : (setSession sid u s).ownerAt j = s.ownerAt j := rfl
@[simp] theorem setSession_offsetAt (sid : Sid) (u : Session) (b' : Bank) : (setSession sid u s).offsetAt b' = s.offsetAt b' := rfl
@[simp] theorem setSession_chan (sid : Sid) (u : Session) (j : Slot) : (setSession sid u s).chan j = s.chan j := rfl
@[simp] theorem setSession_bankEnv (sid : Sid) (u : Session) (b' : Bank) : (setSession sid u s).bankEnv b' = s.bankEnv b' := rfl
@[simp] theorem setSession_rxAt (sid : Sid) (u : Session) (q : Port) : (setSession sid u s).rxAt q = s.rxAt q := by cases q <;> rfl

/-! ## `setOwner` -/

@[simp] theorem setOwner_cfg (i : Slot) (v : Option Sid) : (setOwner i v s).cfg = s.cfg := rfl
@[simp] theorem setOwner_owner (i : Slot) (v : Option Sid) : (setOwner i v s).owner = s.owner.set i.toNat v i.isLt := rfl
@[simp] theorem setOwner_offset (i : Slot) (v : Option Sid) : (setOwner i v s).offset = s.offset := rfl
@[simp] theorem setOwner_sessions (i : Slot) (v : Option Sid) : (setOwner i v s).sessions = s.sessions := rfl
@[simp] theorem setOwner_fault (i : Slot) (v : Option Sid) : (setOwner i v s).fault = s.fault := rfl
@[simp] theorem setOwner_collab (i : Slot) (v : Option Sid) : (setOwner i v s).collab = s.collab := rfl
@[simp] theorem setOwner_timeUs (i : Slot) (v : Option Sid) : (setOwner i v s).timeUs = s.timeUs := rfl
@[simp] theorem setOwner_port (i : Slot) (v : Option Sid) : (setOwner i v s).port = s.port := rfl
@[simp] theorem setOwner_rx (i : Slot) (v : Option Sid) : (setOwner i v s).rx = s.rx := rfl
@[simp] theorem setOwner_agenda (i : Slot) (v : Option Sid) : (setOwner i v s).agenda = s.agenda := rfl
@[simp] theorem setOwner_calls (i : Slot) (v : Option Sid) : (setOwner i v s).calls = s.calls := rfl
@[simp] theorem setOwner_responses (i : Slot) (v : Option Sid) : (setOwner i v s).responses = s.responses := rfl
@[simp] theorem setOwner_session (i : Slot) (v : Option Sid) (sid' : Sid) : (setOwner i v s).session sid' = s.session sid' := rfl
@[simp] theorem setOwner_offsetAt (i : Slot) (v : Option Sid) (b' : Bank) : (setOwner i v s).offsetAt b' = s.offsetAt b' := rfl
@[simp] theorem setOwner_chan (i : Slot) (v : Option Sid) (j : Slot) : (setOwner i v s).chan j = s.chan j := rfl
@[simp] theorem setOwner_bankEnv (i : Slot) (v : Option Sid) (b' : Bank) : (setOwner i v s).bankEnv b' = s.bankEnv b' := rfl
@[simp] theorem setOwner_rxAt (i : Slot) (v : Option Sid) (q : Port) : (setOwner i v s).rxAt q = s.rxAt q := by cases q <;> rfl

/-! ## `setOffset` -/

@[simp] theorem setOffset_cfg (b : Bank) (v : Word) : (setOffset b v s).cfg = s.cfg := rfl
@[simp] theorem setOffset_owner (b : Bank) (v : Word) : (setOffset b v s).owner = s.owner := rfl
@[simp] theorem setOffset_offset (b : Bank) (v : Word) : (setOffset b v s).offset = s.offset.set b.toNat v b.isLt := rfl
@[simp] theorem setOffset_sessions (b : Bank) (v : Word) : (setOffset b v s).sessions = s.sessions := rfl
@[simp] theorem setOffset_fault (b : Bank) (v : Word) : (setOffset b v s).fault = s.fault := rfl
@[simp] theorem setOffset_collab (b : Bank) (v : Word) : (setOffset b v s).collab = s.collab := rfl
@[simp] theorem setOffset_timeUs (b : Bank) (v : Word) : (setOffset b v s).timeUs = s.timeUs := rfl
@[simp] theorem setOffset_port (b : Bank) (v : Word) : (setOffset b v s).port = s.port := rfl
@[simp] theorem setOffset_rx (b : Bank) (v : Word) : (setOffset b v s).rx = s.rx := rfl
@[simp] theorem setOffset_agenda (b : Bank) (v : Word) : (setOffset b v s).agenda = s.agenda := rfl
@[simp] theorem setOffset_calls (b : Bank) (v : Word) : (setOffset b v s).calls = s.calls := rfl
@[simp] theorem setOffset_responses (b : Bank) (v : Word) : (setOffset b v s).responses = s.responses := rfl
@[simp] theorem setOffset_session (b : Bank) (v : Word) (sid' : Sid) : (setOffset b v s).session sid' = s.session sid' := rfl
@[simp] theorem setOffset_ownerAt (b : Bank) (v : Word) (j : Slot) : (setOffset b v s).ownerAt j = s.ownerAt j := rfl
@[simp] theorem setOffset_chan (b : Bank) (v : Word) (j : Slot) : (setOffset b v s).chan j = s.chan j := rfl
@[simp] theorem setOffset_bankEnv (b : Bank) (v : Word) (b' : Bank) : (setOffset b v s).bankEnv b' = s.bankEnv b' := rfl
@[simp] theorem setOffset_rxAt (b : Bank) (v : Word) (q : Port) : (setOffset b v s).rxAt q = s.rxAt q := by cases q <;> rfl

/-! ## `setFault` -/

@[simp] theorem setFault_cfg (f : FaultReg) : (setFault f s).cfg = s.cfg := rfl
@[simp] theorem setFault_owner (f : FaultReg) : (setFault f s).owner = s.owner := rfl
@[simp] theorem setFault_offset (f : FaultReg) : (setFault f s).offset = s.offset := rfl
@[simp] theorem setFault_sessions (f : FaultReg) : (setFault f s).sessions = s.sessions := rfl
@[simp] theorem setFault_fault (f : FaultReg) : (setFault f s).fault = f := rfl
@[simp] theorem setFault_collab (f : FaultReg) : (setFault f s).collab = s.collab := rfl
@[simp] theorem setFault_timeUs (f : FaultReg) : (setFault f s).timeUs = s.timeUs := rfl
@[simp] theorem setFault_port (f : FaultReg) : (setFault f s).port = s.port := rfl
@[simp] theorem setFault_rx (f : FaultReg) : (setFault f s).rx = s.rx := rfl
@[simp] theorem setFault_agenda (f : FaultReg) : (setFault f s).agenda = s.agenda := rfl
@[simp] theorem setFault_calls (f : FaultReg) : (setFault f s).calls = s.calls := rfl
@[simp] theorem setFault_responses (f : FaultReg) : (setFault f s).responses = s.responses := rfl
@[simp] theorem setFault_session (f : FaultReg) (sid' : Sid) : (setFault f s).session sid' = s.session sid' := rfl
@[simp] theorem setFault_ownerAt (f : FaultReg) (j : Slot) : (setFault f s).ownerAt j = s.ownerAt j := rfl
@[simp] theorem setFault_offsetAt (f : FaultReg) (b' : Bank) : (setFault f s).offsetAt b' = s.offsetAt b' := rfl
@[simp] theorem setFault_chan (f : FaultReg) (j : Slot) : (setFault f s).chan j = s.chan j := rfl
@[simp] theorem setFault_bankEnv (f : FaultReg) (b' : Bank) : (setFault f s).bankEnv b' = s.bankEnv b' := rfl
@[simp] theorem setFault_rxAt (f : FaultReg) (q : Port) : (setFault f s).rxAt q = s.rxAt q := by cases q <;> rfl

/-! ## `setCollab` -/

@[simp] theorem setCollab_cfg (k : Collab) : (setCollab k s).cfg = s.cfg := rfl
@[simp] theorem setCollab_owner (k : Collab) : (setCollab k s).owner = s.owner := rfl
@[simp] theorem setCollab_offset (k : Collab) : (setCollab k s).offset = s.offset := rfl
@[simp] theorem setCollab_sessions (k : Collab) : (setCollab k s).sessions = s.sessions := rfl
@[simp] theorem setCollab_fault (k : Collab) : (setCollab k s).fault = s.fault := rfl
@[simp] theorem setCollab_collab (k : Collab) : (setCollab k s).collab = k := rfl
@[simp] theorem setCollab_timeUs (k : Collab) : (setCollab k s).timeUs = s.timeUs := rfl
@[simp] theorem setCollab_port (k : Collab) : (setCollab k s).port = s.port := rfl
@[simp] theorem setCollab_rx (k : Collab) : (setCollab k s).rx = s.rx := rfl
@[simp] theorem setCollab_agenda (k : Collab) : (setCollab k s).agenda = s.agenda := rfl
@[simp] theorem setCollab_calls (k : Collab) : (setCollab k s).calls = s.calls := rfl
@[simp] theorem setCollab_responses (k : Collab) : (setCollab k s).responses = s.responses := rfl
@[simp] theorem setCollab_session (k : Collab) (sid' : Sid) : (setCollab k s).session sid' = s.session sid' := rfl
@[simp] theorem setCollab_ownerAt (k : Collab) (j : Slot) : (setCollab k s).ownerAt j = s.ownerAt j := rfl
@[simp] theorem setCollab_offsetAt (k : Collab) (b' : Bank) : (setCollab k s).offsetAt b' = s.offsetAt b' := rfl
@[simp] theorem setCollab_rxAt (k : Collab) (q : Port) : (setCollab k s).rxAt q = s.rxAt q := by cases q <;> rfl

/-! ## `setTime` -/

@[simp] theorem setTime_cfg (t : Word64) : (setTime t s).cfg = s.cfg := rfl
@[simp] theorem setTime_owner (t : Word64) : (setTime t s).owner = s.owner := rfl
@[simp] theorem setTime_offset (t : Word64) : (setTime t s).offset = s.offset := rfl
@[simp] theorem setTime_sessions (t : Word64) : (setTime t s).sessions = s.sessions := rfl
@[simp] theorem setTime_fault (t : Word64) : (setTime t s).fault = s.fault := rfl
@[simp] theorem setTime_collab (t : Word64) : (setTime t s).collab = s.collab := rfl
@[simp] theorem setTime_timeUs (t : Word64) : (setTime t s).timeUs = t := rfl
@[simp] theorem setTime_port (t : Word64) : (setTime t s).port = s.port := rfl
@[simp] theorem setTime_rx (t : Word64) : (setTime t s).rx = s.rx := rfl
@[simp] theorem setTime_agenda (t : Word64) : (setTime t s).agenda = s.agenda := rfl
@[simp] theorem setTime_calls (t : Word64) : (setTime t s).calls = s.calls := rfl
@[simp] theorem setTime_responses (t : Word64) : (setTime t s).responses = s.responses := rfl
@[simp] theorem setTime_session (t : Word64) (sid' : Sid) : (setTime t s).session sid' = s.session sid' := rfl
@[simp] theorem setTime_ownerAt (t : Word64) (j : Slot) : (setTime t s).ownerAt j = s.ownerAt j := rfl
@[simp] theorem setTime_offsetAt (t : Word64) (b' : Bank) : (setTime t s).offsetAt b' = s.offsetAt b' := rfl
@[simp] theorem setTime_chan (t : Word64) (j : Slot) : (setTime t s).chan j = s.chan j := rfl
@[simp] theorem setTime_bankEnv (t : Word64) (b' : Bank) : (setTime t s).bankEnv b' = s.bankEnv b' := rfl
@[simp] theorem setTime_rxAt (t : Word64) (q : Port) : (setTime t s).rxAt q = s.rxAt q := by cases q <;> rfl

/-! ## `setPort` -/

@[simp] theorem setPort_cfg (p : Port) : (setPort p s).cfg = s.cfg := rfl
@[simp] theorem setPort_owner (p : Port) : (setPort p s).owner = s.owner := rfl
@[simp] theorem setPort_offset (p : Port) : (setPort p s).offset = s.offset := rfl
@[simp] theorem setPort_sessions (p : Port) : (setPort p s).sessions = s.sessions := rfl
@[simp] theorem setPort_fault (p : Port) : (setPort p s).fault = s.fault := rfl
@[simp] theorem setPort_collab (p : Port) : (setPort p s).collab = s.collab := rfl
@[simp] theorem setPort_timeUs (p : Port) : (setPort p s).timeUs = s.timeUs := rfl
@[simp] theorem setPort_port (p : Port) : (setPort p s).port = p := rfl
@[simp] theorem setPort_rx (p : Port) : (setPort p s).rx = s.rx := rfl
@[simp] theorem setPort_agenda (p : Port) : (setPort p s).agenda = s.agenda := rfl
@[simp] theorem setPort_calls (p : Port) : (setPort p s).calls = s.calls := rfl
@[simp] theorem setPort_responses (p : Port) : (setPort p s).responses = s.responses := rfl
@[simp] theorem setPort_session (p : Port) (sid' : Sid) : (setPort p s).session sid' = s.session sid' := rfl
@[simp] theorem setPort_ownerAt (p : Port) (j : Slot) : (setPort p s).ownerAt j = s.ownerAt j := rfl
@[simp] theorem setPort_offsetAt (p : Port) (b' : Bank) : (setPort p s).offsetAt b' = s.offsetAt b' := rfl
@[simp] theorem setPort_chan (p : Port) (j : Slot) : (setPort p s).chan j = s.chan j := rfl
@[simp] theorem setPort_bankEnv (p : Port) (b' : Bank) : (setPort p s).bankEnv b' = s.bankEnv b' := rfl
@[simp] theorem setPort_rxAt (p : Port) (q : Port) : (setPort p s).rxAt q = s.rxAt q := by cases q <;> rfl

/-! ## `setRx` -/

@[simp] theorem setRx_cfg (p : Port) (ws : List Word) : (setRx p ws s).cfg = s.cfg := by cases p <;> rfl
@[simp] theorem setRx_owner (p : Port) (ws : List Word) : (setRx p ws s).owner = s.owner := by cases p <;> rfl
@[simp] theorem setRx_offset (p : Port) (ws : List Word) : (setRx p ws s).offset = s.offset := by cases p <;> rfl
@[simp] theorem setRx_sessions (p : Port) (ws : List Word) : (setRx p ws s).sessions = s.sessions := by cases p <;> rfl
@[simp] theorem setRx_fault (p : Port) (ws : List Word) : (setRx p ws s).fault = s.fault := by cases p <;> rfl
@[simp] theorem setRx_collab (p : Port) (ws : List Word) : (setRx p ws s).collab = s.collab := by cases p <;> rfl
@[simp] theorem setRx_timeUs (p : Port) (ws : List Word) : (setRx p ws s).timeUs = s.timeUs := by cases p <;> rfl
@[simp] theorem setRx_port (p : Port) (ws : List Word) : (setRx p ws s).port = s.port := by cases p <;> rfl
@[simp] theorem setRx_agenda (p : Port) (ws : List Word) : (setRx p ws s).agenda = s.agenda := by cases p <;> rfl
@[simp] theorem setRx_calls (p : Port) (ws : List Word) : (setRx p ws s).calls = s.calls := by cases p <;> rfl
@[simp] theorem setRx_responses (p : Port) (ws : List Word) : (setRx p ws s).responses = s.responses := by cases p <;> rfl
@[simp] theorem setRx_session (p : Port) (ws : List Word) (sid' : Sid) : (setRx p ws s).session sid' = s.session sid' := by cases p <;> rfl
@[simp] theorem setRx_ownerAt (p : Port) (ws : List Word) (j : Slot) : (setRx p ws s).ownerAt j = s.ownerAt j := by cases p <;> rfl
@[simp] theorem setRx_offsetAt (p : Port) (ws : List Word) (b' : Bank) : (setRx p ws s).offsetAt b' = s.offsetAt b' := by cases p <;> rfl
@[simp] theorem setRx_chan (p : Port) (ws : List Word) (j : Slot) : (setRx p ws s).chan j = s.chan j := by cases p <;> rfl
@[simp] theorem setRx_bankEnv (p : Port) (ws : List Word) (b' : Bank) : (setRx p ws s).bankEnv b' = s.bankEnv b' := by cases p <;> rfl

/-! ## `setAgenda` -/

@[simp] theorem setAgenda_cfg (ev : List Event) : (setAgenda ev s).cfg = s.cfg := rfl
@[simp] theorem setAgenda_owner (ev : List Event) : (setAgenda ev s).owner = s.owner := rfl
@[simp] theorem setAgenda_offset (ev : List Event) : (setAgenda ev s).offset = s.offset := rfl
@[simp] theorem setAgenda_sessions (ev : List Event) : (setAgenda ev s).sessions = s.sessions := rfl
@[simp] theorem setAgenda_fault (ev : List Event) : (setAgenda ev s).fault = s.fault := rfl
@[simp] theorem setAgenda_collab (ev : List Event) : (setAgenda ev s).collab = s.collab := rfl
@[simp] theorem setAgenda_timeUs (ev : List Event) : (setAgenda ev s).timeUs = s.timeUs := rfl
@[simp] theorem setAgenda_port (ev : List Event) : (setAgenda ev s).port = s.port := rfl
@[simp] theorem setAgenda_rx (ev : List Event) : (setAgenda ev s).rx = s.rx := rfl
@[simp] theorem setAgenda_agenda (ev : List Event) : (setAgenda ev s).agenda = ev := rfl
@[simp] theorem setAgenda_calls (ev : List Event) : (setAgenda ev s).calls = s.calls := rfl
@[simp] theorem setAgenda_responses (ev : List Event) : (setAgenda ev s).responses = s.responses := rfl
@[simp] theorem setAgenda_session (ev : List Event) (sid' : Sid) : (setAgenda ev s).session sid' = s.session sid' := rfl
@[simp] theorem setAgenda_ownerAt (ev : List Event) (j : Slot) : (setAgenda ev s).ownerAt j = s.ownerAt j := rfl
@[simp] theorem setAgenda_offsetAt (ev : List Event) (b' : Bank) : (setAgenda ev s).offsetAt b' = s.offsetAt b' := rfl
@[simp] theorem setAgenda_chan (ev : List Event) (j : Slot) : (setAgenda ev s).chan j = s.chan j := rfl
@[simp] theorem setAgenda_bankEnv (ev : List Event) (b' : Bank) : (setAgenda ev s).bankEnv b' = s.bankEnv b' := rfl
@[simp] theorem setAgenda_rxAt (ev : List Event) (q : Port) : (setAgenda ev s).rxAt q = s.rxAt q := by cases q <;> rfl

/-! ## `logCall` -/

@[simp] theorem logCall_cfg (c : Call) : (logCall c s).cfg = s.cfg := rfl
@[simp] theorem logCall_owner (c : Call) : (logCall c s).owner = s.owner := rfl
@[simp] theorem logCall_offset (c : Call) : (logCall c s).offset = s.offset := rfl
@[simp] theorem logCall_sessions (c : Call) : (logCall c s).sessions = s.sessions := rfl
@[simp] theorem logCall_fault (c : Call) : (logCall c s).fault = s.fault := rfl
@[simp] theorem logCall_collab (c : Call) : (logCall c s).collab = s.collab := rfl
@[simp] theorem logCall_timeUs (c : Call) : (logCall c s).timeUs = s.timeUs := rfl
@[simp] theorem logCall_port (c : Call) : (logCall c s).port = s.port := rfl
@[simp] theorem logCall_rx (c : Call) : (logCall c s).rx = s.rx := rfl
@[simp] theorem logCall_agenda (c : Call) : (logCall c s).agenda = s.agenda := rfl
@[simp] theorem logCall_calls (c : Call) : (logCall c s).calls = s.calls ++ [c] := rfl
@[simp] theorem logCall_responses (c : Call) : (logCall c s).responses = s.responses := rfl
@[simp] theorem logCall_session (c : Call) (sid' : Sid) : (logCall c s).session sid' = s.session sid' := rfl
@[simp] theorem logCall_ownerAt (c : Call) (j : Slot) : (logCall c s).ownerAt j = s.ownerAt j := rfl
@[simp] theorem logCall_offsetAt (c : Call) (b' : Bank) : (logCall c s).offsetAt b' = s.offsetAt b' := rfl
@[simp] theorem logCall_chan (c : Call) (j : Slot) : (logCall c s).chan j = s.chan j := rfl
@[simp] theorem logCall_bankEnv (c : Call) (b' : Bank) : (logCall c s).bankEnv b' = s.bankEnv b' := rfl
@[simp] theorem logCall_rxAt (c : Call) (q : Port) : (logCall c s).rxAt q = s.rxAt q := by cases q <;> rfl

/-! ## `logResponse` -/

@[simp] theorem logResponse_cfg (r : Response) : (logResponse r s).cfg = s.cfg := rfl
@[simp] theorem logResponse_owner (r : Response) : (logResponse r s).owner = s.owner := rfl
@[simp] theorem logResponse_offset (r : Response) : (logResponse r s).offset = s.offset := rfl
@[simp] theorem logResponse_sessions (r : Response) : (logResponse r s).sessions = s.sessions := rfl
@[simp] theorem logResponse_fault (r : Response) : (logResponse r s).fault = s.fault := rfl
@[simp] theorem logResponse_collab (r : Response) : (logResponse r s).collab = s.collab := rfl
@[simp] theorem logResponse_timeUs (r : Response) : (logResponse r s).timeUs = s.timeUs := rfl
@[simp] theorem logResponse_port (r : Response) : (logResponse r s).port = s.port := rfl
@[simp] theorem logResponse_rx (r : Response) : (logResponse r s).rx = s.rx := rfl
@[simp] theorem logResponse_agenda (r : Response) : (logResponse r s).agenda = s.agenda := rfl
@[simp] theorem logResponse_calls (r : Response) : (logResponse r s).calls = s.calls := rfl
@[simp] theorem logResponse_responses (r : Response) : (logResponse r s).responses = s.responses ++ [r] := rfl
@[simp] theorem logResponse_session (r : Response) (sid' : Sid) : (logResponse r s).session sid' = s.session sid' := rfl
@[simp] theorem logResponse_ownerAt (r : Response) (j : Slot) : (logResponse r s).ownerAt j = s.ownerAt j := rfl
@[simp] theorem logResponse_offsetAt (r : Response) (b' : Bank) : (logResponse r s).offsetAt b' = s.offsetAt b' := rfl
@[simp] theorem logResponse_chan (r : Response) (j : Slot) : (logResponse r s).chan j = s.chan j := rfl
@[simp] theorem logResponse_bankEnv (r : Response) (b' : Bank) : (logResponse r s).bankEnv b' = s.bankEnv b' := rfl
@[simp] theorem logResponse_rxAt (r : Response) (q : Port) : (logResponse r s).rxAt q = s.rxAt q := by cases q <;> rfl

/-! ## Reading back what was written -/

theorem setSession_session (sid sid' : Sid) (u : Session) :
    (setSession sid u s).session sid' = if sid' = sid then u else s.session sid' := by
  simp only [setSession, State.session, Vector.getElem_set, ← BitVec.toNat_inj, eq_comm]

@[simp] theorem setSession_session_same (sid : Sid) (u : Session) : (setSession sid u s).session sid = u := by
  simp [setSession_session]

theorem setSession_session_ne {sid sid' : Sid} (h : sid' ≠ sid) (u : Session) :
    (setSession sid u s).session sid' = s.session sid' := by
  simp [setSession_session, h]

theorem setOwner_ownerAt (i j : Slot) (v : Option Sid) :
    (setOwner i v s).ownerAt j = if j = i then v else s.ownerAt j := by
  simp only [setOwner, State.ownerAt, Vector.getElem_set, ← BitVec.toNat_inj, eq_comm]

@[simp] theorem setOwner_ownerAt_same (i : Slot) (v : Option Sid) : (setOwner i v s).ownerAt i = v := by
  simp [setOwner_ownerAt]

theorem setOffset_offsetAt (b b' : Bank) (v : Word) :
    (setOffset b v s).offsetAt b' = if b' = b then v else s.offsetAt b' := by
  simp only [setOffset, State.offsetAt, Vector.getElem_set, ← BitVec.toNat_inj, eq_comm]

@[simp] theorem setOffset_offsetAt_same (b : Bank) (v : Word) : (setOffset b v s).offsetAt b = v := by
  simp [setOffset_offsetAt]

@[simp] theorem collab_chan (i : Slot) : s.collab.chan i = s.chan i := rfl

@[simp] theorem collab_bank (b : Bank) : s.collab.bank b = s.bankEnv b := rfl

@[simp] theorem setCollab_chan (k : Collab) (i : Slot) : (setCollab k s).chan i = k.chan i := rfl

@[simp] theorem setCollab_bankEnv (k : Collab) (b : Bank) : (setCollab k s).bankEnv b = k.bank b := rfl

theorem setRx_rxAt (p q : Port) (ws : List Word) : (setRx p ws s).rxAt q = if q = p then ws else s.rxAt q := by
  cases p <;> cases q <;> rfl

/-! ## The collaborator's channels and banks -/

theorem setChan_chan (i j : Slot) (ch : Channel) (k : Collab) :
    (setChan i ch k).chan j = if j = i then ch else k.chan j := by
  simp only [setChan, Collab.chan, Vector.getElem_set, ← BitVec.toNat_inj, eq_comm]

@[simp] theorem setChan_chan_same (i : Slot) (ch : Channel) (k : Collab) : (setChan i ch k).chan i = ch := by
  simp [setChan_chan]

@[simp] theorem setChan_bank (i : Slot) (ch : Channel) (k : Collab) (b : Bank) : (setChan i ch k).bank b = k.bank b := rfl

@[simp] theorem setChan_answers (i : Slot) (ch : Channel) (k : Collab) : (setChan i ch k).answers = k.answers := rfl

@[simp] theorem setChan_draws (i : Slot) (ch : Channel) (k : Collab) : (setChan i ch k).draws = k.draws := rfl

theorem setBank_bank (b b' : Bank) (e : BankEnv) (k : Collab) :
    (setBank b e k).bank b' = if b' = b then e else k.bank b' := by
  simp only [setBank, Collab.bank, Vector.getElem_set, ← BitVec.toNat_inj, eq_comm]

@[simp] theorem setBank_bank_same (b : Bank) (e : BankEnv) (k : Collab) : (setBank b e k).bank b = e := by
  simp [setBank_bank]

@[simp] theorem setBank_chan (b : Bank) (e : BankEnv) (k : Collab) (i : Slot) : (setBank b e k).chan i = k.chan i := rfl

@[simp] theorem setBank_answers (b : Bank) (e : BankEnv) (k : Collab) : (setBank b e k).answers = k.answers := rfl

@[simp] theorem setBank_draws (b : Bank) (e : BankEnv) (k : Collab) : (setBank b e k).draws = k.draws := rfl

end Sys2Proof.Machine
end

