-- ==== Sys2Proof/Laws/Ops.lean ====
section
/-! SUPPORT. What each named operation changes and what it keeps, said once; the collaborator's transitions; RESET. -/

namespace Sys2Proof.Machine

variable (s : State)

/-! ## `emit` and the asks -/

@[simp] theorem emit_calls (c : Call) : (emit c s).calls = s.calls ++ [c] := rfl

@[simp] theorem emit_collab (c : Call) : (emit c s).collab = react c s.collab := rfl

theorem emit_chan (c : Call) (j : Slot) : (emit c s).chan j = (react c s.collab).chan j := rfl

theorem emit_bankEnv (c : Call) (b : Bank) : (emit c s).bankEnv b = (react c s.collab).bank b := rfl

@[simp] theorem emit_keeps (c : Call) :
    (emit c s).cfg = s.cfg ∧ (emit c s).owner = s.owner ∧ (emit c s).offset = s.offset ∧
    (emit c s).sessions = s.sessions ∧ (emit c s).fault = s.fault ∧ (emit c s).timeUs = s.timeUs ∧
    (emit c s).port = s.port ∧ (emit c s).rx = s.rx ∧ (emit c s).agenda = s.agenda ∧
    (emit c s).responses = s.responses ∧ (∀ sid', (emit c s).session sid' = s.session sid') ∧
    (∀ j, (emit c s).ownerAt j = s.ownerAt j) ∧ (∀ b', (emit c s).offsetAt b' = s.offsetAt b') ∧
    (∀ q, (emit c s).rxAt q = s.rxAt q) := by simp [emit]

/-- No call touches the open collaborator's coming answers (R192). -/
@[simp] theorem react_draws (c : Call) (k : Collab) :
    (react c k).answers = k.answers ∧ (react c k).draws = k.draws := by
  cases c with
  | tryReserve b a =>
    cases a with
    | none => exact ⟨rfl, rfl⟩
    | some n => unfold react; dsimp only; split <;> exact ⟨rfl, rfl⟩
  | _ => exact ⟨rfl, rfl⟩

/-- Using up an answer of the open collaborator changes nothing else. -/
@[simp] theorem useAnswer_keeps :
    (useAnswer s).cfg = s.cfg ∧ (useAnswer s).owner = s.owner ∧ (useAnswer s).offset = s.offset ∧
    (useAnswer s).sessions = s.sessions ∧ (useAnswer s).fault = s.fault ∧ (useAnswer s).timeUs = s.timeUs ∧
    (useAnswer s).port = s.port ∧ (useAnswer s).rx = s.rx ∧ (useAnswer s).agenda = s.agenda ∧
    (useAnswer s).calls = s.calls ∧ (useAnswer s).responses = s.responses ∧
    (useAnswer s).collab.chans = s.collab.chans ∧ (useAnswer s).collab.banks = s.collab.banks := by
  unfold useAnswer
  split
  · simp
  · split <;> simp

@[simp] theorem useAnswer_accessors :
    (∀ sid, (useAnswer s).session sid = s.session sid) ∧ (∀ j, (useAnswer s).ownerAt j = s.ownerAt j) ∧
    (∀ b, (useAnswer s).offsetAt b = s.offsetAt b) ∧ (∀ j, (useAnswer s).chan j = s.chan j) ∧
    (∀ b, (useAnswer s).bankEnv b = s.bankEnv b) ∧ (∀ j, (useAnswer s).collab.chan j = s.collab.chan j) ∧
    (∀ b, (useAnswer s).collab.bank b = s.collab.bank b) := by
  simp [State.session, State.ownerAt, State.offsetAt, State.chan, State.bankEnv, Collab.chan, Collab.bank]

theorem useAnswer_closed (h : s.cfg.collabClosed = true) : useAnswer s = s := by
  simp [useAnswer, h]

/-! ## Responses, refusals, fatal faults -/

@[simp] theorem respond_responses (ws : List Word) : (respond ws s).responses = s.responses ++ [⟨s.port, false, ws⟩] := rfl

@[simp] theorem refuse_responses (code : RefuseCode) :
    (refuse code s).responses = s.responses ++ [⟨s.port, true, [refuseWord code]⟩] := rfl

@[simp] theorem raiseFatal_fault (code : FatalCode) : (raiseFatal code s).fault = faultOf code := rfl

@[simp] theorem faultOf_halted (code : FatalCode) : (faultOf code).halted = true := rfl

@[simp] theorem faultOf_code (code : FatalCode) : (faultOf code).code = fatalNumber code := rfl

@[simp] theorem respond_keeps (ws : List Word) :
    (respond ws s).cfg = s.cfg ∧ (respond ws s).owner = s.owner ∧ (respond ws s).offset = s.offset ∧
    (respond ws s).sessions = s.sessions ∧ (respond ws s).fault = s.fault ∧ (respond ws s).collab = s.collab ∧
    (respond ws s).timeUs = s.timeUs ∧ (respond ws s).port = s.port ∧ (respond ws s).rx = s.rx ∧
    (respond ws s).agenda = s.agenda ∧ (respond ws s).calls = s.calls ∧
    (∀ sid', (respond ws s).session sid' = s.session sid') ∧ (∀ j, (respond ws s).ownerAt j = s.ownerAt j) ∧
    (∀ b', (respond ws s).offsetAt b' = s.offsetAt b') ∧ (∀ j, (respond ws s).chan j = s.chan j) ∧
    (∀ b', (respond ws s).bankEnv b' = s.bankEnv b') ∧ (∀ q, (respond ws s).rxAt q = s.rxAt q) := by simp [respond]

@[simp] theorem refuse_keeps (code : RefuseCode) :
    (refuse code s).cfg = s.cfg ∧ (refuse code s).owner = s.owner ∧ (refuse code s).offset = s.offset ∧
    (refuse code s).sessions = s.sessions ∧ (refuse code s).fault = s.fault ∧ (refuse code s).collab = s.collab ∧
    (refuse code s).timeUs = s.timeUs ∧ (refuse code s).port = s.port ∧ (refuse code s).rx = s.rx ∧
    (refuse code s).agenda = s.agenda ∧ (refuse code s).calls = s.calls ∧
    (∀ sid', (refuse code s).session sid' = s.session sid') ∧ (∀ j, (refuse code s).ownerAt j = s.ownerAt j) ∧
    (∀ b', (refuse code s).offsetAt b' = s.offsetAt b') ∧ (∀ j, (refuse code s).chan j = s.chan j) ∧
    (∀ b', (refuse code s).bankEnv b' = s.bankEnv b') ∧ (∀ q, (refuse code s).rxAt q = s.rxAt q) := by simp [refuse]

@[simp] theorem raiseFatal_keeps (code : FatalCode) :
    (raiseFatal code s).cfg = s.cfg ∧ (raiseFatal code s).owner = s.owner ∧ (raiseFatal code s).offset = s.offset ∧
    (raiseFatal code s).sessions = s.sessions ∧ (raiseFatal code s).collab = s.collab ∧
    (raiseFatal code s).timeUs = s.timeUs ∧ (raiseFatal code s).port = s.port ∧ (raiseFatal code s).rx = s.rx ∧
    (raiseFatal code s).agenda = s.agenda ∧ (raiseFatal code s).calls = s.calls ∧
    (raiseFatal code s).responses = s.responses ∧ (∀ sid', (raiseFatal code s).session sid' = s.session sid') ∧
    (∀ j, (raiseFatal code s).ownerAt j = s.ownerAt j) ∧ (∀ b', (raiseFatal code s).offsetAt b' = s.offsetAt b') ∧
    (∀ j, (raiseFatal code s).chan j = s.chan j) ∧ (∀ b', (raiseFatal code s).bankEnv b' = s.bankEnv b') ∧
    (∀ q, (raiseFatal code s).rxAt q = s.rxAt q) := by simp [raiseFatal]

/-! ## Session updates: the watchdog, the direction, the period, the slot -/

@[simp] theorem wdStart_keeps (sid : Sid) :
    (wdStart sid s).cfg = s.cfg ∧ (wdStart sid s).owner = s.owner ∧ (wdStart sid s).offset = s.offset ∧
    (wdStart sid s).fault = s.fault ∧ (wdStart sid s).collab = s.collab ∧ (wdStart sid s).timeUs = s.timeUs ∧
    (wdStart sid s).port = s.port ∧ (wdStart sid s).rx = s.rx ∧ (wdStart sid s).agenda = s.agenda ∧
    (wdStart sid s).calls = s.calls ∧ (wdStart sid s).responses = s.responses ∧
    (∀ j, (wdStart sid s).ownerAt j = s.ownerAt j) ∧ (∀ b', (wdStart sid s).offsetAt b' = s.offsetAt b') ∧
    (∀ j, (wdStart sid s).chan j = s.chan j) ∧ (∀ b', (wdStart sid s).bankEnv b' = s.bankEnv b') ∧
    (∀ q, (wdStart sid s).rxAt q = s.rxAt q) := by simp [wdStart]

@[simp] theorem wdCancel_keeps (sid : Sid) :
    (wdCancel sid s).cfg = s.cfg ∧ (wdCancel sid s).owner = s.owner ∧ (wdCancel sid s).offset = s.offset ∧
    (wdCancel sid s).fault = s.fault ∧ (wdCancel sid s).collab = s.collab ∧ (wdCancel sid s).timeUs = s.timeUs ∧
    (wdCancel sid s).port = s.port ∧ (wdCancel sid s).rx = s.rx ∧ (wdCancel sid s).agenda = s.agenda ∧
    (wdCancel sid s).calls = s.calls ∧ (wdCancel sid s).responses = s.responses ∧
    (∀ j, (wdCancel sid s).ownerAt j = s.ownerAt j) ∧ (∀ b', (wdCancel sid s).offsetAt b' = s.offsetAt b') ∧
    (∀ j, (wdCancel sid s).chan j = s.chan j) ∧ (∀ b', (wdCancel sid s).bankEnv b' = s.bankEnv b') ∧
    (∀ q, (wdCancel sid s).rxAt q = s.rxAt q) := by simp [wdCancel]

@[simp] theorem wdCancel_session (sid : Sid) :
    (wdCancel sid s).session sid = { s.session sid with wd := .idle } := by simp [wdCancel]

theorem wdCancel_session_ne {sid sid' : Sid} (h : sid' ≠ sid) : (wdCancel sid s).session sid' = s.session sid' := by
  simp [wdCancel, setSession_session, h]

@[simp] theorem wdStart_session (sid : Sid) : (wdStart sid s).session sid =
    { s.session sid with wd := .pending (deadlineOf s.timeUs (s.session sid).timeoutUs) } := by simp [wdStart]

theorem wdStart_session_ne {sid sid' : Sid} (h : sid' ≠ sid) : (wdStart sid s).session sid' = s.session sid' := by
  simp [wdStart, setSession_session, h]

/-! ## The collaborator's own transitions -/

theorem capture_chan (i j : Slot) (d r : Word) (now : Word64) (k : Collab) :
    (capture i d r now k).chan j = if j = i then
      { k.chan i with fifo := (k.chan i).fifo ++ [d, r], armed := none, irqFlag := true, flagTime := now }
    else k.chan j := by simp [capture, setChan_chan]

@[simp] theorem capture_bank (i : Slot) (d r : Word) (now : Word64) (k : Collab) (b : Bank) :
    (capture i d r now k).bank b = k.bank b := rfl

theorem strayFlag_chan (i j : Slot) (now : Word64) (k : Collab) :
    (strayFlag i now k).chan j = if j = i then { k.chan i with irqFlag := true, flagTime := now } else k.chan j := by
  simp [strayFlag, setChan_chan]

@[simp] theorem strayFlag_bank (i : Slot) (now : Word64) (k : Collab) (b : Bank) :
    (strayFlag i now k).bank b = k.bank b := rfl

@[simp] theorem program_chan (b : Bank) (room : Bool) (off : Word) (k : Collab) (i : Slot) :
    (program b room off k).chan i = k.chan i := rfl

theorem program_bank (b b' : Bank) (room : Bool) (off : Word) (k : Collab) :
    (program b room off k).bank b' =
      if b' = b then { k.bank b with room := room, loadOff := off } else k.bank b' := by
  simp [program, setBank_bank]

/-! ## RESET -/

@[simp] theorem resetBlock_keeps :
    (resetBlock s).cfg = s.cfg ∧ (resetBlock s).timeUs = s.timeUs ∧ (resetBlock s).agenda = s.agenda := by
  simp [resetBlock]

@[simp] theorem resetBlock_session (sid : Sid) : (resetBlock s).session sid = Session.reset := by
  simp [resetBlock, State.session, State.reset]

@[simp] theorem resetBlock_ownerAt (i : Slot) : (resetBlock s).ownerAt i = none := by
  simp [resetBlock, State.ownerAt, State.reset]

@[simp] theorem resetBlock_offsetAt (b : Bank) : (resetBlock s).offsetAt b = 0 := by
  simp [resetBlock, State.offsetAt, State.reset]

@[simp] theorem resetBlock_chan (i : Slot) : (resetBlock s).chan i = Channel.reset := by
  simp [resetBlock, State.chan, Collab.chan, collabReset]

@[simp] theorem resetBlock_bankEnv (b : Bank) :
    (resetBlock s).bankEnv b = { s.bankEnv b with resident := false, lineEn := 0 } := by
  have hb : b = 0 ∨ b = 1 := by revert b; decide
  rcases hb with rfl | rfl <;> rfl

@[simp] theorem resetBlock_io : (resetBlock s).rx = Rx.reset ∧ (resetBlock s).calls = [] ∧
    (resetBlock s).responses = [] ∧ (resetBlock s).fault = FaultReg.reset := by
  simp [resetBlock, State.reset]

/-! ## The halted block -/

theorem whenRunning_running {k : Host.Outcome State Fault Refusal} (h : s.fault.halted = false) :
    whenRunning s k = k := by simp [whenRunning, h]

theorem whenRunning_halted {k : Host.Outcome State Fault Refusal} (h : s.fault.halted = true) :
    whenRunning s k = .fault (.halted s.fault.code) := by simp [whenRunning, h]

/-- A guarded operation answers a next state only on a running block, and then it is the operation's own answer. -/
theorem whenRunning_next {k : Host.Outcome State Fault Refusal} {t : State} (h : whenRunning s k = .next t) :
    s.fault.halted = false ∧ k = .next t := by
  cases hh : s.fault.halted with
  | true => rw [whenRunning_halted s hh] at h; cases h
  | false => exact ⟨rfl, by rwa [whenRunning_running s hh] at h⟩

end Sys2Proof.Machine
end

