-- ==== Sys2Proof/Laws/Arbiter.lean ====
section
/-! SUPPORT. What `reserve`, `fresh` and `allocate` can do, said once (spec 40_arbiter.md R111 to R120). -/

namespace Sys2Proof.Machine

/-! ## Slots and banks in use -/

theorem slot_injective {b b' : Bank} {c c' : Chan} (h : slot b c = slot b' c') : b = b' ∧ c = c' := by
  revert b b' c c'
  decide

@[simp] theorem bankOf_slot (b : Bank) (c : Chan) : bankOf (slot b c) = b := by
  revert b c
  decide

@[simp] theorem chanOf_slot (b : Bank) (c : Chan) : chanOf (slot b c) = c := by
  revert b c
  decide

@[simp] theorem slot_bankOf_chanOf (i : Slot) : slot (bankOf i) (chanOf i) = i := by
  revert i
  decide

/-- R61. -/
theorem slot_toNat (b : Bank) (c : Chan) : (slot b c).toNat = b.toNat * 4 + c.toNat := by
  revert b c
  decide

theorem mem_allChans (c : Chan) : c ∈ allChans := by
  revert c
  decide

theorem mem_allSids (sid : Sid) : sid ∈ allSids := by
  revert sid
  decide

/-- R112: a bank is in use exactly when a slot of it is owned. -/
theorem bankInUse_iff (b : Bank) (s : State) : bankInUse b s = true ↔ ∃ c sid, s.ownerAt (slot b c) = some sid := by
  simp [bankInUse, mem_allChans, Option.isSome_iff_exists]

theorem bankInUse_congr {s t : State} (h : t.owner = s.owner) (b : Bank) : bankInUse b t = bankInUse b s := by
  simp [bankInUse, State.ownerAt, h]

/-- Claiming a slot brings its bank into use and leaves the other banks as they were. -/
theorem bankInUse_setOwner (i : Slot) (sid : Sid) (s : State) (b : Bank) :
    bankInUse b (setOwner i (some sid) s) = (decide (b = bankOf i) || bankInUse b s) := by
  rw [Bool.eq_iff_iff]
  simp only [bankInUse_iff, setOwner_ownerAt, Bool.or_eq_true, decide_eq_true_eq]
  constructor
  · rintro ⟨c, x, h⟩
    split at h
    · exact .inl (by simpa using congrArg bankOf ‹slot b c = i›)
    · exact .inr ⟨c, x, h⟩
  · rintro (rfl | ⟨c, x, h⟩)
    · exact ⟨chanOf i, sid, by simp⟩
    · by_cases hi : slot b c = i
      · exact ⟨c, sid, by simp [hi]⟩
      · exact ⟨c, x, by simp [hi, h]⟩

/-- `preferred` gives the bank of R114. -/
theorem preferred_some_iff (pref : Option Bank) (s : State) (p : Bank) :
    preferred pref s = some p ↔ Prefers pref s p := by
  have hp : p = 0 ∨ p = 1 := by revert p; decide
  cases pref with
  | none =>
    rcases hp with rfl | rfl <;> cases h0 : bankInUse 0#1 s <;> cases h1 : bankInUse 1#1 s <;>
      simp [preferred, lowestInUse, Prefers, h0, h1]
  | some q =>
    have hq : q = 0 ∨ q = 1 := by revert q; decide
    rcases hp with rfl | rfl <;> rcases hq with rfl | rfl <;> cases h0 : bankInUse 0#1 s <;>
      cases h1 : bankInUse 1#1 s <;> simp [preferred, lowestInUse, Prefers, h0, h1]

/-- `preferred` gives no bank exactly when none is in use (R114). -/
theorem preferred_none_iff (pref : Option Bank) (s : State) :
    preferred pref s = none ↔ bankInUse 0 s = false ∧ bankInUse 1 s = false := by
  cases pref with
  | none => cases h0 : bankInUse 0#1 s <;> cases h1 : bankInUse 1#1 s <;> simp [preferred, lowestInUse, h0, h1]
  | some q =>
    have hq : q = 0 ∨ q = 1 := by revert q; decide
    rcases hq with rfl | rfl <;> cases h0 : bankInUse 0#1 s <;> cases h1 : bankInUse 1#1 s <;>
      simp [preferred, lowestInUse, h0, h1]

/-- A bank is preferred only if it is in use (R114). -/
theorem preferred_inUse {pref : Option Bank} {s : State} {p : Bank} (h : preferred pref s = some p) :
    bankInUse p s = true := by
  obtain ⟨-, hu⟩ | ⟨-, ⟨rfl, hu⟩ | ⟨rfl, -, hu⟩⟩ := (preferred_some_iff pref s p).1 h <;> exact hu

/-- No bank is preferred only if none is in use (R114). -/
theorem preferred_none {pref : Option Bank} {s : State} (h : preferred pref s = none) (b : Bank) :
    bankInUse b s = false := by
  have hb : b = 0 ∨ b = 1 := by revert b; decide
  rcases hb with rfl | rfl
  · exact ((preferred_none_iff pref s).1 h).1
  · exact ((preferred_none_iff pref s).1 h).2

/-! ## The asks of the arbiter -/

/-- `t` is `s` after asks of the collaborator that changed nothing but the record of calls and the draws used. -/
structure Asked (s t : State) : Prop where
  cfg : t.cfg = s.cfg
  owner : t.owner = s.owner
  offset : t.offset = s.offset
  sessions : t.sessions = s.sessions
  fault : t.fault = s.fault
  timeUs : t.timeUs = s.timeUs
  port : t.port = s.port
  rx : t.rx = s.rx
  agenda : t.agenda = s.agenda
  responses : t.responses = s.responses
  chan : ∀ i, t.chan i = s.chan i
  bankEnv : ∀ b, t.bankEnv b = s.bankEnv b
  loads : ∀ b, loadCount b t = loadCount b s

theorem Asked.refl (s : State) : Asked s s := by
  constructor <;> intros <;> rfl

theorem Asked.trans {s t u : State} (h : Asked s t) (h' : Asked t u) : Asked s u := by
  constructor <;> intros
  · rw [h'.cfg, h.cfg]
  · rw [h'.owner, h.owner]
  · rw [h'.offset, h.offset]
  · rw [h'.sessions, h.sessions]
  · rw [h'.fault, h.fault]
  · rw [h'.timeUs, h.timeUs]
  · rw [h'.port, h.port]
  · rw [h'.rx, h.rx]
  · rw [h'.agenda, h.agenda]
  · rw [h'.responses, h.responses]
  · rw [h'.chan, h.chan]
  · rw [h'.bankEnv, h.bankEnv]
  · rw [h'.loads, h.loads]

theorem Asked.ownerAt {s t : State} (h : Asked s t) (i : Slot) : t.ownerAt i = s.ownerAt i := by
  simp [State.ownerAt, h.owner]

theorem Asked.offsetAt {s t : State} (h : Asked s t) (b : Bank) : t.offsetAt b = s.offsetAt b := by
  simp [State.offsetAt, h.offset]

theorem Asked.session {s t : State} (h : Asked s t) (sid : Sid) : t.session sid = s.session sid := by
  simp [State.session, h.sessions]

theorem Asked.bankInUse {s t : State} (h : Asked s t) (b : Bank) : bankInUse b t = bankInUse b s :=
  bankInUse_congr h.owner b

/-- The state after `ask channel_try_reserve(b)`. -/
def reserveAsked (b : Bank) (s : State) : State := (askReserve b s).2

/-- The query about room changes nothing (R194). -/
theorem askCanLoad_asked (b : Bank) (s : State) : Asked s (askCanLoad b s).2 := by
  constructor <;> intros <;> simp [askCanLoad, emit_chan, emit_bankEnv, react, loadCount]

/-- "answers none and changes nothing" (R193). -/
theorem reserveAsked_none {b : Bank} {s : State} (h : reserveAnswer b s = none) : Asked s (reserveAsked b s) := by
  constructor <;> intros <;> simp [reserveAsked, askReserve, h, emit_chan, emit_bankEnv, react, loadCount]

/-- What an answered reservation changes: the collaborator marks the channel reserved (R193). -/
theorem reserveAsked_chan {b : Bank} {c : Chan} {s : State} (h : reserveAnswer b s = some c.toNat) (i : Slot) :
    (reserveAsked b s).chan i = if i = slot b c then { s.chan i with reserved := true } else s.chan i := by
  have hc : c.toNat < 4 := c.isLt
  simp only [reserveAsked, askReserve, h, emit_chan, react, hc, if_true, BitVec.ofNat_toNat, BitVec.setWidth_eq,
    setChan_chan, useAnswer_accessors]
  split
  · rename_i hi; subst hi; rfl
  · rfl

/-- What no reservation changes. -/
theorem reserveAsked_keeps (b : Bank) (s : State) :
    (reserveAsked b s).cfg = s.cfg ∧ (reserveAsked b s).owner = s.owner ∧ (reserveAsked b s).offset = s.offset ∧
    (reserveAsked b s).sessions = s.sessions ∧ (reserveAsked b s).fault = s.fault ∧
    (reserveAsked b s).timeUs = s.timeUs ∧ (reserveAsked b s).port = s.port ∧ (reserveAsked b s).rx = s.rx ∧
    (reserveAsked b s).agenda = s.agenda ∧ (reserveAsked b s).responses = s.responses ∧
    (∀ b', (reserveAsked b s).bankEnv b' = s.bankEnv b') ∧ (∀ b', loadCount b' (reserveAsked b s) = loadCount b' s) := by
  refine ⟨?_, ?_, ?_, ?_, ?_, ?_, ?_, ?_, ?_, ?_, ?_, ?_⟩ <;>
    simp [reserveAsked, askReserve, emit_bankEnv, loadCount]
  intro b'
  cases reserveAnswer b s with
  | none => simp [react]
  | some n => simp only [react]; split <;> simp

/-- An answer out of contract, after asks that changed nothing, is F_ARBITRATION (R115, R224). -/
theorem arbitrationFault_asked {s s0 : State} {b : Bank} {n : Nat} {cs : List Call} (ha : Asked s s0)
    (hc : s0.calls = s.calls ++ cs) (hr : reserveAnswer b s0 = some n) :
    ArbitrationFault b n cs s (raiseFatal .arbitration (reserveAsked b s0)) := by
  have k := reserveAsked_keeps b s0
  refine ⟨rfl, ?_, ?_, ?_, ?_, ?_, ?_, ?_, ?_, ?_, ?_, ?_, ?_⟩
  · simp [reserveAsked, askReserve, hr, hc]
  · simp [k, ha.owner]
  · simp [k, ha.offset]
  · simp [k, ha.sessions]
  · simp [k, ha.responses]
  · intro i
    simp only [raiseFatal_keeps, reserveAsked, askReserve, hr, emit_chan, react, ← ha.chan]
    by_cases hn : n < 4
    · simp only [hn, if_true, setChan_chan, useAnswer_accessors, true_and]
      split
      · rename_i e; subst e; rfl
      · rfl
    · simp [hn]
  · intro b'; simp [k, ha.bankEnv]
  · simp [k, ha.timeUs]
  · simp [k, ha.cfg]
  · simp [k, ha.port]
  · simp [k, ha.rx]
  · simp [k, ha.agenda]

/-- `reserve` gives none, a channel of `free(b)`, or the fatal fault F_ARBITRATION (R115). -/
theorem reserve_cases (b : Bank) (s : State) :
    (reserveAnswer b s = none ∧ reserve b s = .none (reserveAsked b s)) ∨
    (∃ c : Chan, reserveAnswer b s = some c.toNat ∧ s.ownerAt (slot b c) = none ∧
      reserve b s = .got c (reserveAsked b s)) ∨
    (∃ n, reserveAnswer b s = some n ∧ ¬(n < 4 ∧ s.ownerAt (slot b (BitVec.ofNat 2 n)) = none) ∧
      reserve b s = .fatal (raiseFatal .arbitration (reserveAsked b s))) := by
  have own : ∀ i, (reserveAsked b s).ownerAt i = s.ownerAt i := by
    intro i; simp [State.ownerAt, (reserveAsked_keeps b s).2.1]
  have split1 : askReserve b s = (reserveAnswer b s, reserveAsked b s) := rfl
  unfold reserve
  rw [split1]
  cases ha : reserveAnswer b s with
  | none => exact .inl ⟨rfl, rfl⟩
  | some n =>
    by_cases hn : n < 4 ∧ s.ownerAt (slot b (BitVec.ofNat 2 n)) = none
    · refine .inr (.inl ⟨BitVec.ofNat 2 n, ?_, hn.2, ?_⟩)
      · simp [Nat.mod_eq_of_lt hn.1]
      · simp [own, hn]
    · refine .inr (.inr ⟨n, rfl, hn, ?_⟩)
      simp [own, hn]

/-! ## `allocate` -/

/-- The state in which a channel just reserved is claimed in a bank: with the program loaded first where the bank was
not in use (R116, R117). -/
def claimed (b : Bank) (c : Chan) (sid : Sid) (s0 : State) : State :=
  let s1 := reserveAsked b s0
  if bankInUse b s0 then claim b c sid s1
  else claim b c sid (setOffset b (s1.bankEnv b).loadOff (emit (.load b (s1.bankEnv b).loadOff) s1))

/-- What `allocate` and its parts can do from `s`: claim one free channel after asks that changed nothing, fail having
changed nothing, or raise F_ARBITRATION having written nothing else (R118, R120, R115). -/
def AllocSpec (sid : Sid) (s : State) (r : Allocated) : Prop :=
  (∃ s0 b c, Asked s s0 ∧ reserveAnswer b s0 = some c.toNat ∧ s.ownerAt (slot b c) = none ∧
    (bankInUse b s = false → (s.bankEnv b).room = true) ∧
    r = .ok b c ((claimed b c sid s0).offsetAt b) (claimed b c sid s0)) ∨
  (∃ s0, Asked s s0 ∧ r = .fail s0) ∨
  (∃ s0 b n, Asked s s0 ∧ reserveAnswer b s0 = some n ∧ ¬(n < 4 ∧ s.ownerAt (slot b (BitVec.ofNat 2 n)) = none) ∧
    r = .fatal (raiseFatal .arbitration (reserveAsked b s0)))

theorem AllocSpec.after {sid : Sid} {s t : State} {r : Allocated} (h : Asked s t) (ht : AllocSpec sid t r) :
    AllocSpec sid s r := by
  rcases ht with ⟨s0, b, c, ha, hr, ho, hroom, rfl⟩ | ⟨s0, ha, rfl⟩ | ⟨s0, b, n, ha, hr, hn, rfl⟩
  · refine .inl ⟨s0, b, c, h.trans ha, hr, ?_, ?_, rfl⟩
    · rwa [h.ownerAt] at ho
    · rwa [h.bankInUse, h.bankEnv] at hroom
  · exact .inr (.inl ⟨s0, h.trans ha, rfl⟩)
  · exact .inr (.inr ⟨s0, b, n, h.trans ha, hr, by rwa [h.ownerAt] at hn, rfl⟩)

theorem claimed_inUse {b : Bank} {c : Chan} {sid : Sid} {s : State} (hu : bankInUse b s = true) :
    claimResident b c sid (reserveAsked b s) =
      .ok b c ((claimed b c sid s).offsetAt b) (claimed b c sid s) := by
  simp [claimResident, claimed, hu, claim]

theorem fresh_spec {b : Bank} {s : State} (sid : Sid) (hu : bankInUse b s = false) : AllocSpec sid s (fresh b sid s) := by
  have hq := askCanLoad_asked b s
  have split1 : askCanLoad b s = ((s.bankEnv b).room, (askCanLoad b s).2) := rfl
  unfold fresh
  rw [split1]
  cases hroom : (s.bankEnv b).room with
  | false => exact .inr (.inl ⟨_, hq, rfl⟩)
  | true =>
    have hu' : bankInUse b (askCanLoad b s).2 = false := by rw [hq.bankInUse, hu]
    rcases reserve_cases b (askCanLoad b s).2 with ⟨ha, hr⟩ | ⟨c, ha, ho, hr⟩ | ⟨n, ha, hn, hr⟩
    · exact .inr (.inl ⟨_, hq.trans (reserveAsked_none ha), by simp only [hr]⟩)
    · refine .inl ⟨_, b, c, hq, ha, by rwa [hq.ownerAt] at ho, fun _ => hroom, ?_⟩
      simp [hr, claimed, hu', askLoad, claimResident, claim]
    · exact .inr (.inr ⟨_, b, n, hq, ha, by rwa [hq.ownerAt] at hn, by simp only [hr]⟩)

theorem allocateOther_spec (b : Bank) (sid : Sid) (s : State) : AllocSpec sid s (allocateOther b sid s) := by
  unfold allocateOther
  split
  · rename_i hu
    rcases reserve_cases b s with ⟨ha, hr⟩ | ⟨c, ha, ho, hr⟩ | ⟨n, ha, hn, hr⟩
    · exact .inr (.inl ⟨_, reserveAsked_none ha, by simp only [hr]⟩)
    · exact .inl ⟨s, b, c, .refl s, ha, ho, fun h => by simp [hu] at h, by simp only [hr]; exact claimed_inUse hu⟩
    · exact .inr (.inr ⟨s, b, n, .refl s, ha, hn, by simp only [hr]⟩)
  · rename_i hu
    exact fresh_spec sid (by simpa using hu)

theorem allocateFrom_spec {p : Bank} {s : State} (sid : Sid) (hu : bankInUse p s = true) :
    AllocSpec sid s (allocateFrom p sid s) := by
  unfold allocateFrom
  rcases reserve_cases p s with ⟨ha, hr⟩ | ⟨c, ha, ho, hr⟩ | ⟨n, ha, hn, hr⟩
  · simp only [hr]
    exact AllocSpec.after (reserveAsked_none ha) (allocateOther_spec _ sid _)
  · exact .inl ⟨s, p, c, .refl s, ha, ho, fun h => by simp [hu] at h, by simp only [hr]; exact claimed_inUse hu⟩
  · exact .inr (.inr ⟨s, p, n, .refl s, ha, hn, by simp only [hr]⟩)

theorem allocateFirst_spec {s : State} (sid : Sid) (hu : ∀ b, bankInUse b s = false) :
    AllocSpec sid s (allocateFirst sid s) := by
  unfold allocateFirst
  have h0 := fresh_spec sid (hu 0)
  rcases h0 with ⟨s0, b, c, ha, hr, ho, hroom, he⟩ | ⟨s0, ha, he⟩ | ⟨s0, b, n, ha, hr, hn, he⟩
  · rw [he]; exact .inl ⟨s0, b, c, ha, hr, ho, hroom, rfl⟩
  · rw [he]
    exact AllocSpec.after ha (fresh_spec sid (by rw [ha.bankInUse]; exact hu 1))
  · rw [he]; exact .inr (.inr ⟨s0, b, n, ha, hr, hn, rfl⟩)

/-- Everything `allocate` can do (R118, R120). -/
theorem allocate_spec (sid : Sid) (pref : Option Bank) (s : State) : AllocSpec sid s (allocate sid pref s) := by
  unfold allocate
  split
  · rename_i hp; exact allocateFrom_spec sid (preferred_inUse hp)
  · rename_i hp; exact allocateFirst_spec sid (preferred_none hp)

/-! ## The claimed slot -/

theorem claimed_ownerAt (b : Bank) (c : Chan) (sid : Sid) (s0 : State) (i : Slot) :
    (claimed b c sid s0).ownerAt i = if i = slot b c then some sid else s0.ownerAt i := by
  have h := reserveAsked_keeps b s0
  have own : (reserveAsked b s0).ownerAt i = s0.ownerAt i := by simp [State.ownerAt, h.2.1]
  unfold claimed
  dsimp only
  split <;> simp [claim, setOwner_ownerAt, own]

theorem claimed_offsetAt (b : Bank) (c : Chan) (sid : Sid) (s0 : State) (b' : Bank) :
    (claimed b c sid s0).offsetAt b' =
      if b' = b ∧ bankInUse b s0 = false then (s0.bankEnv b).loadOff else s0.offsetAt b' := by
  have h := reserveAsked_keeps b s0
  have off : (reserveAsked b s0).offsetAt b' = s0.offsetAt b' := by simp [State.offsetAt, h.2.2.1]
  unfold claimed
  dsimp only
  cases hu : bankInUse b s0 <;> simp [claim, setOffset_offsetAt, off, h.2.2.2.2.2.2.2.2.2.2.1]

theorem claimed_keeps (b : Bank) (c : Chan) (sid : Sid) (s0 : State) :
    (claimed b c sid s0).cfg = s0.cfg ∧ (claimed b c sid s0).sessions = s0.sessions ∧
    (claimed b c sid s0).fault = s0.fault ∧ (claimed b c sid s0).timeUs = s0.timeUs ∧
    (claimed b c sid s0).port = s0.port ∧ (claimed b c sid s0).rx = s0.rx ∧
    (claimed b c sid s0).agenda = s0.agenda ∧ (claimed b c sid s0).responses = s0.responses := by
  have h := reserveAsked_keeps b s0
  unfold claimed
  dsimp only
  split <;> simp [claim, h]

theorem claimed_session (b : Bank) (c : Chan) (sid : Sid) (s0 : State) (x : Sid) :
    (claimed b c sid s0).session x = s0.session x := by
  simp only [State.session, (claimed_keeps b c sid s0).2.1]

theorem claimed_chan {b : Bank} {c : Chan} {s0 : State} (sid : Sid) (h : reserveAnswer b s0 = some c.toNat) (i : Slot) :
    (claimed b c sid s0).chan i = if i = slot b c then { s0.chan i with reserved := true } else s0.chan i := by
  rw [← reserveAsked_chan h]
  unfold claimed
  dsimp only
  split <;> simp [claim, emit_chan, react]

theorem claimed_bankEnv (b : Bank) (c : Chan) (sid : Sid) (s0 : State) (b' : Bank) :
    (claimed b c sid s0).bankEnv b' =
      if b' = b ∧ bankInUse b s0 = false then { s0.bankEnv b' with resident := true } else s0.bankEnv b' := by
  have hb := (reserveAsked_keeps b s0).2.2.2.2.2.2.2.2.2.2.1
  have hb' : ∀ x, (reserveAsked b s0).collab.bank x = s0.bankEnv x := hb
  unfold claimed
  dsimp only
  cases hu : bankInUse b s0 with
  | true => simp [claim, hb]
  | false =>
    simp only [Bool.false_eq_true, if_false, claim, setOwner_bankEnv, setOffset_bankEnv, emit_bankEnv, react, and_true]
    rw [setBank_bank, hb', hb']
    split
    · rename_i hbb; subst hbb; rfl
    · rfl

theorem claimed_loadCount (b : Bank) (c : Chan) (sid : Sid) (s0 : State) (b' : Bank) :
    loadCount b' (claimed b c sid s0) =
      loadCount b' s0 + if b' = b ∧ bankInUse b s0 = false then 1 else 0 := by
  have h := (reserveAsked_keeps b s0).2.2.2.2.2.2.2.2.2.2.2 b'
  unfold claimed
  dsimp only
  cases hu : bankInUse b s0 with
  | true => simp only [if_true, claim, Bool.true_eq_false, and_false, if_false, Nat.add_zero]; exact h
  | false =>
    have hcalls : ∀ off, loadCount b' (claim b c sid (setOffset b off (emit (.load b off) (reserveAsked b s0)))) =
        loadCount b' (reserveAsked b s0) + if b = b' then 1 else 0 := by
      intro off
      simp [loadCount, claim, List.countP_append, List.countP_cons]
    simp only [Bool.false_eq_true, if_false, hcalls, h, and_true, eq_comm]

/-- Claiming a free slot brings its bank into use and leaves the other as it was. -/
theorem claimed_bankInUse {b : Bank} {c : Chan} {sid : Sid} {s : State} (hfree : s.ownerAt (slot b c) = none)
    (b' : Bank) : bankInUse b' (claimed b c sid s) = (decide (b' = b) || bankInUse b' s) := by
  rw [Bool.eq_iff_iff, bankInUse_iff, Bool.or_eq_true, decide_eq_true_eq, bankInUse_iff]
  simp only [claimed_ownerAt]
  constructor
  · rintro ⟨c', x, hx⟩
    split at hx
    · rename_i e; exact .inl (slot_injective e).1
    · exact .inr ⟨c', x, hx⟩
  · rintro (rfl | ⟨c', x, hx⟩)
    · exact ⟨c, sid, by simp⟩
    · refine ⟨c', x, ?_⟩
      rw [if_neg]
      · exact hx
      · intro e; rw [e, hfree] at hx; cases hx

/-- The closed collaborator's answer is a channel that is not reserved (R193). -/
theorem reserveAnswer_closed {b : Bank} {s : State} (h : s.cfg.collabClosed = true) :
    reserveAnswer b s = lowestFree b s.collab := by simp [reserveAnswer, h]

theorem lowestFree_some {b : Bank} {k : Collab} {n : Nat} (h : lowestFree b k = some n) :
    ∃ c : Chan, n = c.toNat ∧ (k.chan (slot b c)).reserved = false := by
  unfold lowestFree at h
  simp only [Option.map_eq_some_iff] at h
  obtain ⟨c, hc, rfl⟩ := h
  exact ⟨c, rfl, by simpa using List.find?_some hc⟩

end Sys2Proof.Machine
end

