-- ==== Sys2Proof/Laws/Closed.lean ====
section
/-! SUPPORT. The closed system (spec 43_collaborator.md R192, R193; 10_state.md R39): what the collaborator answers there,
what `reserve` and `fresh` then give, and the calls of a failing `allocate`. -/

namespace Sys2Proof.Machine

/-- The closed invariant depends on the configuration, the owners, the reservations and the residencies alone. -/
theorem ClosedInv.congr {s t : State} (h : ClosedInv s) (hc : t.cfg = s.cfg) (ho : t.owner = s.owner)
    (hr : ∀ i, (t.chan i).reserved = (s.chan i).reserved) (hb : ∀ b, (t.bankEnv b).resident = (s.bankEnv b).resident) :
    ClosedInv t where
  closed := by rw [hc]; exact h.closed
  reservedOwned := by intro i; rw [hr, State.ownerAt, ho]; exact h.reservedOwned i
  residentInUse := by intro b; rw [hb, bankInUse_congr ho]; exact h.residentInUse b

theorem ClosedInv.asked {s t : State} (h : ClosedInv s) (ha : Asked s t) : ClosedInv t :=
  h.congr ha.cfg ha.owner (fun i => by rw [ha.chan]) fun b => by rw [ha.bankEnv]

theorem freeChans_asked {s t : State} (h : Asked s t) (b : Bank) : freeChans b t = freeChans b s := by
  simp [freeChans, h.ownerAt]

/-- R115: "Under COLLAB_CLOSED the answer is min(free(b)), or none when the bank is full". -/
theorem reserveAnswer_free {s : State} (h : ClosedInv s) (b : Bank) :
    reserveAnswer b s = (freeChans b s).head?.map BitVec.toNat := by
  rw [reserveAnswer_closed h.closed, lowestFree, freeChans, List.head?_filter]
  congr 2
  funext c
  have := h.reservedOwned (slot b c)
  simp only [State.chan] at this
  rw [this]
  cases s.ownerAt (slot b c) <;> rfl

theorem reserve_closed_some {s : State} (h : ClosedInv s) {b : Bank} {c : Chan} {cs : List Chan}
    (hf : freeChans b s = c :: cs) : reserve b s = .got c (reserveAsked b s) := by
  have ha := reserveAnswer_free h b
  rw [hf] at ha
  rcases reserve_cases b s with ⟨h', -⟩ | ⟨c', h', -, e⟩ | ⟨n, h', hb, e⟩
  · rw [h'] at ha; cases ha
  · rw [h'] at ha
    have : c' = c := BitVec.eq_of_toNat_eq (Option.some.inj ha)
    rw [e, this]
  · rw [h'] at ha
    have hn : n = c.toNat := Option.some.inj ha
    have hm : c ∈ freeChans b s := by rw [hf]; exact List.mem_cons_self
    simp only [freeChans, List.mem_filter, Option.isNone_iff_eq_none] at hm
    exact absurd ⟨by rw [hn]; exact c.isLt, by rw [hn, BitVec.ofNat_toNat, BitVec.setWidth_eq]; exact hm.2⟩ hb

theorem reserve_closed_none {s : State} (h : ClosedInv s) {b : Bank} (hf : freeChans b s = []) :
    reserveAnswer b s = none ∧ reserve b s = .none (reserveAsked b s) := by
  have ha := reserveAnswer_free h b
  rw [hf] at ha
  rcases reserve_cases b s with ⟨h', e⟩ | ⟨c', h', -, e⟩ | ⟨n, h', -, e⟩
  · exact ⟨h', e⟩
  · rw [h'] at ha; cases ha
  · rw [h'] at ha; cases ha

theorem freeChans_unused {s : State} {b : Bank} (h : bankInUse b s = false) : freeChans b s = [0, 1, 2, 3] := by
  have hn : ∀ c, (s.ownerAt (slot b c)).isNone = true := by
    intro c
    have := (List.any_eq_false.1 h) c (mem_allChans c)
    simpa using this
  exact (List.filter_eq_self.2 fun c _ => hn c).trans rfl

/-- `fresh` in the closed system: the first channel when the bank has room, else failure having changed nothing
(R117). -/
theorem fresh_closed {s : State} {b : Bank} (sid : Sid) (h : ClosedInv s) (hu : bankInUse b s = false) :
    ((s.bankEnv b).room = true → ∃ s1, fresh b sid s = .ok b 0 (s.bankEnv b).loadOff s1) ∧
    ((s.bankEnv b).room = false → ∃ s1, fresh b sid s = .fail s1 ∧ Asked s s1) := by
  have hq := askCanLoad_asked b s
  have split1 : askCanLoad b s = ((s.bankEnv b).room, (askCanLoad b s).2) := rfl
  constructor
  · intro hroom
    have hf : freeChans b (askCanLoad b s).2 = 0 :: [1, 2, 3] := by rw [freeChans_asked hq, freeChans_unused hu]
    have hr := reserve_closed_some (h.asked hq) hf
    have k := (reserveAsked_keeps b (askCanLoad b s).2).2.2.2.2.2.2.2.2.2.2.1 b
    refine ⟨claim b 0 sid (setOffset b ((reserveAsked b (askCanLoad b s).2).bankEnv b).loadOff
      (emit (.load b ((reserveAsked b (askCanLoad b s).2).bankEnv b).loadOff) (reserveAsked b (askCanLoad b s).2))), ?_⟩
    unfold fresh
    rw [split1, hroom]
    simp only [hr, askLoad, claimResident]
    congr 1
    simp [k, hq.bankEnv]
  · intro hroom
    refine ⟨_, ?_, hq⟩
    unfold fresh
    rw [split1, hroom]

/-- Claiming a channel the collaborator reserved keeps the closed invariant (R39). -/
theorem ClosedInv.claimed {s : State} {b : Bank} {c : Chan} (sid : Sid) (h : ClosedInv s)
    (ha : reserveAnswer b s = some c.toNat) (hfree : s.ownerAt (slot b c) = none) :
    ClosedInv (claimed b c sid s) where
  closed := by rw [(claimed_keeps b c sid s).1]; exact h.closed
  reservedOwned := by
    intro i
    rw [claimed_chan sid ha, claimed_ownerAt]
    split
    · rfl
    · exact h.reservedOwned i
  residentInUse := by
    intro b'
    rw [claimed_bankEnv, claimed_bankInUse hfree]
    by_cases hb : b' = b
    · subst hb
      have := h.residentInUse b'
      cases hu : bankInUse b' s <;> simp_all
    · simp [hb, h.residentInUse b']

/-! ## The calls of a failing `allocate` (R120) -/

/-- `t` has made no calls since `s` but questions answered "none" or about room. -/
def OnlyQuestions (s t : State) : Prop :=
  ∃ cs, t.calls = s.calls ++ cs ∧ ∀ call ∈ cs, ∃ b, call = .tryReserve b none ∨ ∃ room, call = .canLoad b room

theorem OnlyQuestions.trans {s t u : State} (h : OnlyQuestions s t) (h' : OnlyQuestions t u) : OnlyQuestions s u := by
  obtain ⟨cs, e, hc⟩ := h
  obtain ⟨cs', e', hc'⟩ := h'
  refine ⟨cs ++ cs', by rw [e', e, List.append_assoc], ?_⟩
  intro c hm
  rcases List.mem_append.1 hm with h | h
  · exact hc c h
  · exact hc' c h

theorem onlyQuestions_reserve {b : Bank} {s : State} (h : reserveAnswer b s = none) :
    OnlyQuestions s (reserveAsked b s) :=
  ⟨[.tryReserve b none], by simp [reserveAsked, askReserve, h],
    fun _ hc => ⟨b, .inl (List.mem_singleton.1 hc)⟩⟩

theorem onlyQuestions_canLoad (b : Bank) (s : State) : OnlyQuestions s (askCanLoad b s).2 :=
  ⟨[.canLoad b (s.bankEnv b).room], by simp [askCanLoad], fun _ hc => ⟨b, .inr ⟨_, List.mem_singleton.1 hc⟩⟩⟩

theorem onlyQuestions_fresh {b : Bank} {sid : Sid} {s s1 : State} (h : fresh b sid s = .fail s1) :
    OnlyQuestions s s1 := by
  have split1 : askCanLoad b s = ((s.bankEnv b).room, (askCanLoad b s).2) := rfl
  unfold fresh at h
  rw [split1] at h
  cases hroom : (s.bankEnv b).room with
  | false => rw [hroom] at h; cases h; exact onlyQuestions_canLoad b s
  | true =>
    rw [hroom] at h
    rcases reserve_cases b (askCanLoad b s).2 with ⟨ha, hr⟩ | ⟨c, -, -, hr⟩ | ⟨n, -, -, hr⟩ <;> simp only [hr] at h
    · cases h; exact (onlyQuestions_canLoad b s).trans (onlyQuestions_reserve ha)
    · cases h
    · cases h

/-- A failing `allocate` makes no call but questions (R120). -/
theorem onlyQuestions_allocate {sid : Sid} {pref : Option Bank} {s s1 : State} (h : allocate sid pref s = .fail s1) :
    OnlyQuestions s s1 := by
  unfold allocate at h
  split at h
  · rename_i p _
    unfold allocateFrom at h
    rcases reserve_cases p s with ⟨ha, hr⟩ | ⟨c, -, -, hr⟩ | ⟨n, -, -, hr⟩ <;> simp only [hr] at h
    · refine (onlyQuestions_reserve ha).trans ?_
      unfold allocateOther at h
      split at h
      · rcases reserve_cases (otherBank p) (reserveAsked p s) with ⟨ha, hr⟩ | ⟨c, -, -, hr⟩ | ⟨n, -, -, hr⟩ <;>
          simp only [hr] at h
        · cases h; exact onlyQuestions_reserve ha
        · cases h
        · cases h
      · exact onlyQuestions_fresh h
    · cases h
    · cases h
  · unfold allocateFirst at h
    split at h
    · cases h
    · cases h
    · rename_i s0 h0
      exact (onlyQuestions_fresh h0).trans (onlyQuestions_fresh h)

end Sys2Proof.Machine
end

