-- ==== Sys2Proof/Laws/Decode.lean ====
section
/-! SUPPORT. Reading and writing command words: the two halves of a 64-bit operand, and what each head word the encoder
writes decodes to (spec 30_encoding.md R80 to R91). -/

namespace Sys2Proof

/-- Bit `k` of a 64-bit operand is a bit of its low or of its high word (R63, R89). -/
theorem join64_getLsbD (lo hi : Word) (k : Nat) :
    (join64 lo hi).getLsbD k = if k < 32 then lo.getLsbD k else hi.getLsbD (k - 32) := by
  refine BitVec.getLsbD_append.trans ?_
  by_cases h : k < 32 <;> simp [h]

theorem lo64_getLsbD (x : Word64) (k : Nat) : (lo64 x).getLsbD k = (decide (k < 32) && x.getLsbD k) := by
  simp [lo64, BitVec.getLsbD_extractLsb']

theorem hi64_getLsbD (x : Word64) (k : Nat) : (hi64 x).getLsbD k = (decide (k < 32) && x.getLsbD (32 + k)) := by
  simp [hi64, BitVec.getLsbD_extractLsb']

/-- Low word first and back (R63). -/
theorem join64_lo64_hi64 (x : Word64) : join64 (lo64 x) (hi64 x) = x := by
  apply BitVec.eq_of_getLsbD_eq
  intro k hk
  rw [join64_getLsbD, lo64_getLsbD, hi64_getLsbD]
  split
  · simp_all
  · have h2 : k - 32 < 32 := by omega
    have h3 : 32 + (k - 32) = k := by omega
    simp [h2, h3]

theorem lo64_join64 (lo hi : Word) : lo64 (join64 lo hi) = lo := by
  apply BitVec.eq_of_getLsbD_eq
  intro k hk
  rw [lo64_getLsbD, join64_getLsbD]
  simp [hk]

theorem hi64_join64 (lo hi : Word) : hi64 (join64 lo hi) = hi := by
  apply BitVec.eq_of_getLsbD_eq
  intro k hk
  rw [hi64_getLsbD, join64_getLsbD]
  simp [hk]

/-- A command decodes as its head word and its own extension words do, and leaves the words after it. -/
theorem decode_command {w : Word} {ext : List Word} {i : Instr} (hl : ext.length = extensionWords w)
    (hd : decodeHead w ext = .ok i) (rest : List Word) : decode (w :: (ext ++ rest)) = .command i rest := by
  have h1 : ¬(ext ++ rest).length < ext.length := by simp
  simp only [decode, ← hl, h1, if_false, List.take_left, hd, List.drop_left]

/-- The same for an illegal head word: its extension words are dropped with it (R84). -/
theorem decode_illegal {w : Word} {ext : List Word} {why : Illegal} (hl : ext.length = extensionWords w)
    (hd : decodeHead w ext = .error why) (rest : List Word) : decode (w :: (ext ++ rest)) = .illegal why rest := by
  have h1 : ¬(ext ++ rest).length < ext.length := by simp
  simp only [decode, ← hl, h1, if_false, List.take_left, hd, List.drop_left]

/-- A head word that selects a row is read as that row's operation. -/
theorem decodeHead_row {w : Word} {r : Row} (h : opcodeTable.find? (Row.selects w) = some r) (ext : List Word) :
    decodeHead w ext = .ok (assemble r.op w ext) := by
  simp [decodeHead, h]

/-! ## The head words the encoder writes -/

theorem extensionWords_headS (sid : Sid) :
    extensionWords (headS 0x1 sid) = 3 ∧ extensionWords (headS 0x2 sid) = 0 ∧ extensionWords (headS 0x3 sid) = 0 ∧
    extensionWords (headS 0x4 sid) = 0 ∧ extensionWords (headS 0x5 sid) = 0 ∧ extensionWords (headS 0xD sid) = 0 := by
  revert sid
  decide

theorem extensionWords_headA (sid : Sid) (b : Bank) :
    extensionWords (headA sid 0 0) = 0 ∧ extensionWords (headA sid 1 b) = 0 := by
  revert sid b
  decide

theorem extensionWords_headB (b : Bank) :
    extensionWords (headB 0xA b) = 0 ∧ extensionWords (headB 0xB b) = 0 := by
  revert b
  decide

theorem extensionWords_headC (b : Bank) (c : Chan) :
    extensionWords (headC 0x9 b c) = 0 ∧ extensionWords (headC 0xC b c) = 2 := by
  revert b c
  decide

/-- A head word with no extension words, by the row it selects. -/
theorem decodeHead_bare {w : Word} {r : Row} {i : Instr}
    (h : opcodeTable.find? (Row.selects w) = some r ∧ assemble r.op w [] = i) : decodeHead w [] = .ok i := by
  rw [decodeHead_row h.1, h.2]

theorem decodeHead_init (sid : Sid) : decodeHead (headS 0x2 sid) [] = .ok (.init sid) :=
  decodeHead_bare (r := ⟨.INIT, 0x20000000, 0xF0FFFFFF⟩) (by revert sid; decide)

theorem decodeHead_getdir (sid : Sid) : decodeHead (headS 0x3 sid) [] = .ok (.getdir sid) :=
  decodeHead_bare (r := ⟨.GETDIR, 0x30000000, 0xF0FFFFFF⟩) (by revert sid; decide)

theorem decodeHead_getper (sid : Sid) : decodeHead (headS 0x4 sid) [] = .ok (.getper sid) :=
  decodeHead_bare (r := ⟨.GETPER, 0x40000000, 0xF0FFFFFF⟩) (by revert sid; decide)

theorem decodeHead_getbank (sid : Sid) : decodeHead (headS 0x5 sid) [] = .ok (.getbank sid) :=
  decodeHead_bare (r := ⟨.GETBANK, 0x50000000, 0xF0FFFFFF⟩) (by revert sid; decide)

theorem decodeHead_evWdexp (sid : Sid) : decodeHead (headS 0xD sid) [] = .ok (.evWdexp sid) :=
  decodeHead_bare (r := ⟨.EV_WDEXP, 0xD0000000, 0xF0FFFFFF⟩) (by revert sid; decide)

theorem decodeHead_alloc (sid : Sid) : decodeHead (headA sid 0 0) [] = .ok (.alloc sid) :=
  decodeHead_bare (r := ⟨.ALLOC, 0x80000000, 0xF0FFFFFF⟩) (by revert sid; decide)

theorem decodeHead_allocP (sid : Sid) (b : Bank) : decodeHead (headA sid 1 b) [] = .ok (.allocP sid b) :=
  decodeHead_bare (r := ⟨.ALLOC_P, 0x80000002, 0xF0FFFFFE⟩) (by revert sid b; decide)

theorem decodeHead_resolve (b : Bank) (c : Chan) : decodeHead (headC 0x9 b c) [] = .ok (.resolve b c) :=
  decodeHead_bare (r := ⟨.RESOLVE, 0x90000000, 0xFFFFFFF8⟩) (by revert b c; decide)

theorem decodeHead_bankuse (b : Bank) : decodeHead (headB 0xA b) [] = .ok (.bankuse b) :=
  decodeHead_bare (r := ⟨.BANKUSE, 0xA0000000, 0xFFFFFFFE⟩) (by revert b; decide)

theorem decodeHead_progoff (b : Bank) : decodeHead (headB 0xB b) [] = .ok (.progoff b) :=
  decodeHead_bare (r := ⟨.PROGOFF, 0xB0000000, 0xFFFFFFFE⟩) (by revert b; decide)

theorem decodeHead_construct (sid : Sid) (pin lo hi : Word) :
    decodeHead (headS 0x1 sid) [pin, lo, hi] = .ok (.construct sid pin (join64 lo hi)) := by
  have h : ∀ x : Sid, opcodeTable.find? (Row.selects (headS 0x1 x)) = some ⟨.CONSTRUCT, 0x10000000, 0xF0FFFFFF⟩ ∧
      sidField (headS 0x1 x) = x := by decide
  rw [decodeHead_row (h sid).1]
  show Except.ok (Instr.construct (sidField (headS 0x1 sid)) pin (join64 lo hi)) = _
  rw [(h sid).2]

theorem decodeHead_evCapture (b : Bank) (c : Chan) (d r : Word) :
    decodeHead (headC 0xC b c) [d, r] = .ok (.evCapture b c d r) := by
  have h : ∀ (x : Bank) (y : Chan),
      opcodeTable.find? (Row.selects (headC 0xC x y)) = some ⟨.EV_CAPTURE, 0xC0000000, 0xFFFFFFF8⟩ ∧
      slotBankField (headC 0xC x y) = x ∧ chanField (headC 0xC x y) = y := by decide
  rw [decodeHead_row (h b c).1]
  show Except.ok (Instr.evCapture (slotBankField (headC 0xC b c)) (chanField (headC 0xC b c)) d r) = _
  rw [(h b c).2.1, (h b c).2.2]

theorem decodeHead_evTime (lo hi : Word) : decodeHead 0xE0000000 [lo, hi] = .ok (.evTime (join64 lo hi)) := by
  have h : opcodeTable.find? (Row.selects 0xE0000000) = some ⟨.EV_TIME, 0xE0000000, 0xFFFFFFFF⟩ := by decide
  rw [decodeHead_row h]
  rfl

end Sys2Proof
end

