-- ==== Sys2Proof/Laws/Events.lean ====
section
/-! SUPPORT. What `on_capture`, `serve_capture` and `on_watchdog_expiry` can do, said once
(spec 42_session_events.md R170 to R181, 60_exceptions.md R231, R232). -/

namespace Sys2Proof.Machine

/-- `t` is `s` after something that touched only session `sid`'s direction, period and watchdog, one channel's queue,
count and flag, FAULT and the record of calls, and loaded no program. -/
structure Served (sid : Sid) (i : Slot) (s t : State) : Prop where
  cfg : t.cfg = s.cfg
  owner : t.owner = s.owner
  offset : t.offset = s.offset
  timeUs : t.timeUs = s.timeUs
  port : t.port = s.port
  rx : t.rx = s.rx
  agenda : t.agenda = s.agenda
  responses : t.responses = s.responses
  session : ∃ d p w, t.session sid = { s.session sid with direction := d, periodUs := p, wd := w }
  others : ∀ sid', sid' ≠ sid → t.session sid' = s.session sid'
  chan : ∃ a f g, t.chan i = { s.chan i with armed := a, fifo := f, irqFlag := g }
  chans : ∀ j, j ≠ i → t.chan j = s.chan j
  bankEnv : ∀ b, t.bankEnv b = s.bankEnv b
  loads : ∀ b, loadCount b t = loadCount b s
  draws : t.collab.answers = s.collab.answers ∧ t.collab.draws = s.collab.draws

theorem Served.refl (sid : Sid) (i : Slot) (s : State) : Served sid i s s where
  cfg := rfl
  owner := rfl
  offset := rfl
  timeUs := rfl
  port := rfl
  rx := rfl
  agenda := rfl
  responses := rfl
  session := ⟨_, _, _, rfl⟩
  others := fun _ _ => rfl
  chan := ⟨_, _, _, rfl⟩
  chans := fun _ _ => rfl
  bankEnv := fun _ => rfl
  loads := fun _ => rfl
  draws := ⟨rfl, rfl⟩

theorem Served.trans {sid : Sid} {i : Slot} {s t u : State} (h : Served sid i s t) (h' : Served sid i t u) :
    Served sid i s u where
  cfg := h'.cfg.trans h.cfg
  owner := h'.owner.trans h.owner
  offset := h'.offset.trans h.offset
  timeUs := h'.timeUs.trans h.timeUs
  port := h'.port.trans h.port
  rx := h'.rx.trans h.rx
  agenda := h'.agenda.trans h.agenda
  responses := h'.responses.trans h.responses
  session := by
    obtain ⟨d, p, w, e⟩ := h.session
    obtain ⟨d', p', w', e'⟩ := h'.session
    exact ⟨d', p', w', by rw [e', e]⟩
  others := fun x hx => (h'.others x hx).trans (h.others x hx)
  chan := by
    obtain ⟨d, p, w, e⟩ := h.chan
    obtain ⟨d', p', w', e'⟩ := h'.chan
    exact ⟨d', p', w', by rw [e', e]⟩
  chans := fun j hj => (h'.chans j hj).trans (h.chans j hj)
  bankEnv := fun b => (h'.bankEnv b).trans (h.bankEnv b)
  loads := fun b => (h'.loads b).trans (h.loads b)
  draws := ⟨h'.draws.1.trans h.draws.1, h'.draws.2.trans h.draws.2⟩

/-- Writing direction, period and watchdog of the session, and nothing else. -/
theorem served_setSession (sid : Sid) (i : Slot) (s : State) (d : Bool) (p : Word64) (w : Watchdog) :
    Served sid i s (setSession sid { s.session sid with direction := d, periodUs := p, wd := w } s) := by
  refine { Served.refl sid i s with session := ?_, others := ?_ }
  · exact ⟨d, p, w, by simp⟩
  · intro x hx
    simp [setSession_session, hx]

theorem served_wdCancel (sid : Sid) (i : Slot) (s : State) : Served sid i s (wdCancel sid s) :=
  served_setSession sid i s (s.session sid).direction (s.session sid).periodUs .idle

theorem served_wdStart (sid : Sid) (i : Slot) (s : State) : Served sid i s (wdStart sid s) :=
  served_setSession sid i s (s.session sid).direction (s.session sid).periodUs _

theorem served_setDirection (sid : Sid) (i : Slot) (s : State) (d : Bool) : Served sid i s (setDirection sid d s) :=
  served_setSession sid i s d (s.session sid).periodUs (s.session sid).wd

theorem served_setPeriod (sid : Sid) (i : Slot) (s : State) (p : Word64) : Served sid i s (setPeriod sid p s) :=
  served_setSession sid i s (s.session sid).direction p (s.session sid).wd

theorem served_raiseFatal (sid : Sid) (i : Slot) (s : State) (code : FatalCode) :
    Served sid i s (raiseFatal code s) := { Served.refl sid i s with }

/-- The calls `on_capture` makes. -/
theorem served_emit (sid : Sid) (b : Bank) (c : Chan) (s : State) {call : Call}
    (h : (∃ a, call = .readValue b c a) ∨ call = .flagClear b c ∨ (∃ m, call = .arm b c m)) :
    Served sid (slot b c) s (emit call s) := by
  have same : s.collab.chan (slot b c) = s.chan (slot b c) := rfl
  rcases h with ⟨a, rfl⟩ | rfl | ⟨m, rfl⟩
  all_goals
    refine { Served.refl sid (slot b c) s with chan := ?_, chans := ?_, loads := ?_ }
    · simp only [emit_chan, react, setChan_chan_same, same]
      exact ⟨_, _, _, rfl⟩
    · intro j hj
      simp only [emit_chan, react, setChan_chan, hj, if_false]
      rfl
    · intro x
      simp [loadCount]

theorem served_askRead (sid : Sid) (b : Bank) (c : Chan) (s : State) : Served sid (slot b c) s (askRead b c s).2 :=
  served_emit sid b c s (.inl ⟨_, rfl⟩)

theorem served_rearm (sid : Sid) (b : Bank) (c : Chan) (m : Word) (s : State) :
    Served sid (slot b c) s (rearm sid b c m s) :=
  ((served_emit sid b c s (.inr (.inl rfl))).trans (served_emit sid b c _ (.inr (.inr ⟨m, rfl⟩)))).trans
    (served_wdStart sid _ _)

theorem served_onCount (sid : Sid) (b : Bank) (c : Chan) (m v2 : Word) (s : State) :
    Served sid (slot b c) s (onCount sid b c m v2 s) := by
  unfold onCount
  split
  · exact served_raiseFatal sid _ s _
  · exact (served_setPeriod sid _ s _).trans (served_rearm sid b c m _)

/-- `on_capture` touches only its own session and its own channel, in every case (R22, R170). -/
theorem onCapture_served (sid : Sid) (s : State) :
    Served sid (slot (s.session sid).bank (s.session sid).channel) s (onCapture sid s) := by
  unfold onCapture
  dsimp only
  have h1 := (served_wdCancel sid (slot (s.session sid).bank (s.session sid).channel) s).trans
    (served_askRead sid (s.session sid).bank (s.session sid).channel (wdCancel sid s))
  split
  · rename_i s1 e
    rw [e] at h1
    exact h1.trans (served_raiseFatal sid _ _ _)
  · rename_i v1 s1 e
    rw [e] at h1
    have h2 := (h1.trans (served_setDirection sid _ s1 (directionOf v1))).trans
      (served_askRead sid (s.session sid).bank (s.session sid).channel _)
    split
    · rename_i s2 e2
      rw [e2] at h2
      exact h2.trans (served_raiseFatal sid _ _ _)
    · rename_i v2 s2 e2
      rw [e2] at h2
      exact h2.trans (served_onCount sid _ _ _ _ _)

/-- `on_watchdog_expiry` touches only its own session (R175, R176). -/
theorem onExpiry_served (sid : Sid) (i : Slot) (s : State) : Served sid i s (onExpiry sid s) :=
  (served_wdCancel sid i s).trans (served_setPeriod sid i _ 0)

@[simp] theorem onExpiry_session (sid : Sid) (s : State) :
    (onExpiry sid s).session sid = { s.session sid with periodUs := 0, wd := .idle } := by
  simp [onExpiry, setPeriod]

@[simp] theorem onExpiry_keeps (sid : Sid) (s : State) :
    (onExpiry sid s).fault = s.fault ∧ (onExpiry sid s).collab = s.collab ∧ (onExpiry sid s).calls = s.calls := by
  simp [onExpiry, setPeriod]

/-- A capture in contract: the four calls, the direction, the period, the channel rearmed, the watchdog restarted
(R170 to R174). -/
theorem onCapture_ok {sid : Sid} {s : State} {v1 v2 : Word} {rest : List Word}
    (hf : (s.chan (slot (s.session sid).bank (s.session sid).channel)).fifo = v1 :: v2 :: rest)
    (hr : ¬(s.session sid).maxCounter < v2) :
    (onCapture sid s).session sid =
      { s.session sid with
        direction := directionOf v1
        periodUs := periodOf s.cfg (s.session sid).maxCounter v2
        wd := .pending (deadlineOf s.timeUs (s.session sid).timeoutUs) } ∧
    (onCapture sid s).chan (slot (s.session sid).bank (s.session sid).channel) =
      { s.chan (slot (s.session sid).bank (s.session sid).channel) with
        armed := some (s.session sid).maxCounter, fifo := rest, irqFlag := false } ∧
    (onCapture sid s).fault = s.fault ∧
    (onCapture sid s).calls = s.calls ++
      [.readValue (s.session sid).bank (s.session sid).channel (some v1),
       .readValue (s.session sid).bank (s.session sid).channel (some v2),
       .flagClear (s.session sid).bank (s.session sid).channel,
       .arm (s.session sid).bank (s.session sid).channel (s.session sid).maxCounter] := by
  refine ⟨?_, ?_, ?_, ?_⟩ <;>
    simp [onCapture, askRead, hf, setDirection, emit_chan, react, onCount, hr, rearm, setPeriod]

/-- The first read finds nothing: F_EMPTY, the watchdog cancelled, nothing else of the session or its channel changed, no
call but the read (R200, R224). -/
theorem onCapture_empty {sid : Sid} {s : State}
    (hf : (s.chan (slot (s.session sid).bank (s.session sid).channel)).fifo = []) :
    (onCapture sid s).session sid = { s.session sid with wd := .idle } ∧
    (onCapture sid s).fault = faultOf .empty ∧
    (onCapture sid s).chan (slot (s.session sid).bank (s.session sid).channel) =
      s.chan (slot (s.session sid).bank (s.session sid).channel) ∧
    (onCapture sid s).calls = s.calls ++ [.readValue (s.session sid).bank (s.session sid).channel none] := by
  refine ⟨?_, ?_, ?_, ?_⟩ <;> simp [onCapture, askRead, hf, emit_chan, react]
  rw [← hf]

/-- The second read finds nothing: F_EMPTY, with the direction already written and the one word taken, the flag not
cleared and the channel not rearmed (R200, R224). -/
theorem onCapture_oneWord {sid : Sid} {s : State} {v1 : Word}
    (hf : (s.chan (slot (s.session sid).bank (s.session sid).channel)).fifo = [v1]) :
    (onCapture sid s).session sid = { s.session sid with direction := directionOf v1, wd := .idle } ∧
    (onCapture sid s).fault = faultOf .empty ∧
    (onCapture sid s).chan (slot (s.session sid).bank (s.session sid).channel) =
      { s.chan (slot (s.session sid).bank (s.session sid).channel) with fifo := [] } ∧
    (onCapture sid s).calls = s.calls ++
      [.readValue (s.session sid).bank (s.session sid).channel (some v1),
       .readValue (s.session sid).bank (s.session sid).channel none] := by
  refine ⟨?_, ?_, ?_, ?_⟩ <;> simp [onCapture, askRead, hf, setDirection, emit_chan, react]

/-- A count above `max_counter`: F_RANGE, the watchdog cancelled and the direction written, the period kept, the flag
not cleared and the channel not rearmed, no call but the two reads (R181, R224). -/
theorem onCapture_range {sid : Sid} {s : State} {v1 v2 : Word} {rest : List Word}
    (hf : (s.chan (slot (s.session sid).bank (s.session sid).channel)).fifo = v1 :: v2 :: rest)
    (hr : (s.session sid).maxCounter < v2) :
    (onCapture sid s).session sid = { s.session sid with direction := directionOf v1, wd := .idle } ∧
    (onCapture sid s).chan (slot (s.session sid).bank (s.session sid).channel) =
      { s.chan (slot (s.session sid).bank (s.session sid).channel) with fifo := rest } ∧
    (onCapture sid s).fault = faultOf .range ∧
    (onCapture sid s).calls = s.calls ++
      [.readValue (s.session sid).bank (s.session sid).channel (some v1),
       .readValue (s.session sid).bank (s.session sid).channel (some v2)] := by
  refine ⟨?_, ?_, ?_, ?_⟩ <;>
    simp [onCapture, askRead, hf, setDirection, emit_chan, react, onCount, hr]

/-- A service that raised a fatal fault, in the terms of the claims: what is left of the session, its channel and the
calls, and nothing else touched (R224). -/
theorem onCapture_cut {sid : Sid} {s : State} {code : BitVec 4} {u : Session} {ch : Channel} {cs : List Call}
    (hf : (onCapture sid s).fault = ⟨true, code⟩) (hu : (onCapture sid s).session sid = u)
    (hc : (onCapture sid s).chan (slot (s.session sid).bank (s.session sid).channel) = ch)
    (hcs : (onCapture sid s).calls = s.calls ++ cs) :
    CaptureCut code sid (s.session sid).bank (s.session sid).channel u ch cs s (onCapture sid s) :=
  have sv := onCapture_served sid s
  { fault := hf, session := hu, others := sv.others, channel := hc, channels := sv.chans, bankEnv := sv.bankEnv
    calls := hcs, answers := sv.draws.1, draws := sv.draws.2, owner := sv.owner, offset := sv.offset
    timeUs := sv.timeUs, cfg := sv.cfg, port := sv.port, rx := sv.rx, agenda := sv.agenda
    responses := sv.responses }

/-- An unowned slot halts the block and touches nothing else (R232). -/
theorem serveCapture_unowned {b : Bank} {c : Chan} {s : State} (h : s.ownerAt (slot b c) = none) :
    serveCapture b c s = raiseFatal .unresolved s := by simp [serveCapture, resolve, h]

theorem serveCapture_owned {b : Bank} {c : Chan} {s : State} {sid : Sid} (h : s.ownerAt (slot b c) = some sid) :
    serveCapture b c s = onCapture sid s := by simp [serveCapture, resolve, h]

/-! ## EV_CAPTURE (R94, R203, R228) -/

/-- The state after the collaborator's part of a capture. -/
def captured (b : Bank) (c : Chan) (d r : Word) (s : State) : State :=
  setCollab (capture (slot b c) d r s.timeUs s.collab) s

theorem captured_chan (b : Bank) (c : Chan) (d r : Word) (s : State) (j : Slot) :
    (captured b c d r s).chan j = if j = slot b c then
      { s.chan (slot b c) with
        fifo := (s.chan (slot b c)).fifo ++ [d, r], armed := none, irqFlag := true, flagTime := s.timeUs }
    else s.chan j := capture_chan _ _ _ _ _ _

/-- The collaborator's part of a capture, in the terms of the claims (R203). -/
theorem captured_arrived (b : Bank) (c : Chan) (d r : Word) (s : State) :
    CaptureArrived b c d r s (captured b c d r s).collab where
  channel := (captured_chan b c d r s _).trans (if_pos rfl)
  channels i hi := (captured_chan b c d r s i).trans (if_neg hi)
  banks _ := capture_bank _ _ _ _ _ _
  answers := rfl
  draws := rfl

/-- After a capture the channel is pending exactly when its line is enabled (R228). -/
theorem captured_pending (b : Bank) (c : Chan) (d r : Word) (s : State) :
    pending b c (captured b c d r s) = (s.bankEnv b).lineEn.getLsbD c.toNat := by
  have hb : (captured b c d r s).bankEnv b = s.bankEnv b := rfl
  simp [pending, captured_chan, hb]

theorem captureAndServe_enabled {b : Bank} {c : Chan} {s : State} (d r : Word)
    (h : (s.bankEnv b).lineEn.getLsbD c.toNat = true) :
    captureAndServe b c d r s = serveCapture b c (captured b c d r s) :=
  if_pos ((captured_pending b c d r s).trans h)

theorem captureAndServe_disabled {b : Bank} {c : Chan} {s : State} (d r : Word)
    (h : (s.bankEnv b).lineEn.getLsbD c.toNat = false) : captureAndServe b c d r s = captured b c d r s :=
  if_neg (by rw [Bool.not_eq_true]; exact (captured_pending b c d r s).trans h)

/-- A stimulus word on its own stream runs (R92). -/
theorem stimulusCommand_ready {s : State} {k : Host.Outcome State Fault Refusal} (hr : s.fault.halted = false)
    (hp : s.port = .stimulus) : stimulusCommand s k = k := by
  unfold stimulusCommand
  rw [whenRunning_running s hr, if_neg (by simp [hp])]

end Sys2Proof.Machine
end

