-- ==== Sys2Proof/Laws/PerInstr.lean ====
section
/-! SUPPORT. One fact per instruction, as syntax: the family `HeadFixesLength` says that the head word the encoder
writes fixes how many words follow it (spec 30_encoding.md R80). -/

namespace Sys2Proof.Laws.HeadFixesLength

/-- The words of `i` are a head word and as many extension words as that head word asks for (R80). -/
def Statement (i : Instr) : Prop := ∃ w ext, encode i = w :: ext ∧ ext.length = extensionWords w

theorem construct (sid : Sid) (pin : Word) (t : Word64) : Statement (.construct sid pin t) :=
  ⟨_, _, rfl, (extensionWords_headS sid).1.symm⟩

theorem init (sid : Sid) : Statement (.init sid) := ⟨_, _, rfl, (extensionWords_headS sid).2.1.symm⟩

theorem getdir (sid : Sid) : Statement (.getdir sid) := ⟨_, _, rfl, (extensionWords_headS sid).2.2.1.symm⟩

theorem getper (sid : Sid) : Statement (.getper sid) := ⟨_, _, rfl, (extensionWords_headS sid).2.2.2.1.symm⟩

theorem getbank (sid : Sid) : Statement (.getbank sid) := ⟨_, _, rfl, (extensionWords_headS sid).2.2.2.2.1.symm⟩

theorem alloc (sid : Sid) : Statement (.alloc sid) := ⟨_, _, rfl, (extensionWords_headA sid 0).1.symm⟩

theorem allocP (sid : Sid) (b : Bank) : Statement (.allocP sid b) := ⟨_, _, rfl, (extensionWords_headA sid b).2.symm⟩

theorem resolve (b : Bank) (c : Chan) : Statement (.resolve b c) := ⟨_, _, rfl, (extensionWords_headC b c).1.symm⟩

theorem bankuse (b : Bank) : Statement (.bankuse b) := ⟨_, _, rfl, (extensionWords_headB b).1.symm⟩

theorem progoff (b : Bank) : Statement (.progoff b) := ⟨_, _, rfl, (extensionWords_headB b).2.symm⟩

theorem evCapture (b : Bank) (c : Chan) (d r : Word) : Statement (.evCapture b c d r) :=
  ⟨_, _, rfl, (extensionWords_headC b c).2.symm⟩

theorem evWdexp (sid : Sid) : Statement (.evWdexp sid) := ⟨_, _, rfl, (extensionWords_headS sid).2.2.2.2.2.symm⟩

theorem evTime (t : Word64) : Statement (.evTime t) := ⟨_, _, rfl, rfl⟩

end Sys2Proof.Laws.HeadFixesLength
end

