-- ==== Sys2Proof/Laws/Sessions.lean ====
section
/-! SUPPORT. What the host operations of a session can do, said once (spec 41_session_host.md). -/

namespace Sys2Proof.Machine

/-- A session command answers a next state only on a running block: a refusal that changes nothing else, or the
operation's own state when every check of R140 passes. -/
theorem sessionCommand_next {sid : Sid} {allowed : List Fsm} {s k t : State}
    (h : sessionCommand sid allowed s k = .next t) :
    s.fault.halted = false ∧
      ((∃ code, t = refuse code s) ∨
        (t = k ∧ s.port = .host ∧ sid.toNat < s.cfg.nSess ∧ (s.session sid).fsm ∈ allowed)) := by
  unfold sessionCommand at h
  obtain ⟨hrun, h⟩ := whenRunning_next s h
  refine ⟨hrun, ?_⟩
  split at h
  · cases h; exact .inl ⟨_, rfl⟩
  · rename_i hp
    split at h
    · cases h; exact .inl ⟨_, rfl⟩
    · rename_i hn
      split at h
      · cases h; exact .inl ⟨_, rfl⟩
      · rename_i hf
        cases h
        exact .inr ⟨rfl, by simpa using hp, by omega, by simpa using hf⟩

/-- The checks pass: the operation runs (R140). -/
theorem sessionCommand_ready {sid : Sid} {allowed : List Fsm} {s k : State} (h : HostReady sid s)
    (hf : (s.session sid).fsm ∈ allowed) : sessionCommand sid allowed s k = .next k := by
  have := h.exists_
  simp [sessionCommand, whenRunning, h.running, h.port, hf]
  omega

/-! ## CONSTRUCT -/

/-- CONSTRUCT refuses an over-long timeout, or writes its four fields and answers 0 (R141, R142). -/
theorem construct_cases (sid : Sid) (pin : Word) (timeout : Word64) (s : State) :
    (2 ^ 32 ≤ maxCounterOf s.cfg timeout ∧ construct sid pin timeout s = refuse .range s) ∨
    (maxCounterOf s.cfg timeout < 2 ^ 32 ∧ construct sid pin timeout s = respond [0] (setSession sid
      { s.session sid with
        basePin := pin, timeoutUs := timeout, maxCounter := BitVec.ofNat 32 (maxCounterOf s.cfg timeout)
        fsm := .uninitialized } s)) := by
  unfold construct constructed
  dsimp only
  split
  · exact .inl ⟨‹_›, rfl⟩
  · exact .inr ⟨by omega, rfl⟩

/-! ## INIT -/

@[simp] theorem emitAll_calls (cs : List Call) (s : State) : (emitAll cs s).calls = s.calls ++ cs := by
  induction cs generalizing s with
  | nil => simp [emitAll]
  | cons c cs ih =>
    have := ih (emit c s)
    simp only [emitAll, List.foldl_cons, emit_calls] at this ⊢
    simpa using this

@[simp] theorem emitAll_keeps (cs : List Call) (s : State) :
    (emitAll cs s).cfg = s.cfg ∧ (emitAll cs s).owner = s.owner ∧ (emitAll cs s).offset = s.offset ∧
    (emitAll cs s).sessions = s.sessions ∧ (emitAll cs s).fault = s.fault ∧ (emitAll cs s).timeUs = s.timeUs ∧
    (emitAll cs s).port = s.port ∧ (emitAll cs s).rx = s.rx ∧ (emitAll cs s).agenda = s.agenda ∧
    (emitAll cs s).responses = s.responses := by
  induction cs generalizing s with
  | nil => simp [emitAll]
  | cons c cs ih =>
    have := ih (emit c s)
    simp only [emitAll, List.foldl_cons, emit_keeps] at this ⊢
    exact this

@[simp] theorem emitAll_session (cs : List Call) (s : State) (sid : Sid) :
    (emitAll cs s).session sid = s.session sid := by simp only [State.session, emitAll_keeps]

/-- What INIT writes after a successful `allocate`: its session's slot, watchdog and state (R144). -/
theorem initSlot_session (sid : Sid) (b : Bank) (c : Chan) (off : Word) (s : State) :
    (initSlot sid b c off s).session sid =
      { s.session sid with
        fsm := .initialized, bank := b, channel := c, offset := off
        wd := .pending (deadlineOf s.timeUs (s.session sid).timeoutUs) } := by
  simp [initSlot, markInitialized, bindSlot]

theorem initSlot_session_ne {sid sid' : Sid} (hne : sid' ≠ sid) (b : Bank) (c : Chan) (off : Word) (s : State) :
    (initSlot sid b c off s).session sid' = s.session sid' := by
  simp [initSlot, markInitialized, setSession_session, hne, wdStart_session_ne, bindSlot]

/-- The calls of INIT after `allocate`, in order (R144). -/
theorem initSlot_calls (sid : Sid) (b : Bank) (c : Chan) (off : Word) (s : State) :
    (initSlot sid b c off s).calls = s.calls ++
      [.pinPulldown (s.session sid).basePin, .pinPulldown ((s.session sid).basePin + 1),
       .configure b c off (s.session sid).basePin, .enable b c, .clear b c, .enableLines b 0b1111,
       .arm b c (s.session sid).maxCounter] := by
  simp [initSlot, markInitialized, setupCalls, bindSlot, secondPin, allLines]

theorem initSlot_keeps (sid : Sid) (b : Bank) (c : Chan) (off : Word) (s : State) :
    (initSlot sid b c off s).cfg = s.cfg ∧ (initSlot sid b c off s).owner = s.owner ∧
    (initSlot sid b c off s).offset = s.offset ∧ (initSlot sid b c off s).fault = s.fault ∧
    (initSlot sid b c off s).timeUs = s.timeUs ∧ (initSlot sid b c off s).port = s.port ∧
    (initSlot sid b c off s).rx = s.rx ∧ (initSlot sid b c off s).agenda = s.agenda ∧
    (initSlot sid b c off s).responses = s.responses := by
  simp [initSlot, markInitialized, bindSlot]

/-- What INIT's calls do to the channel and the bank it was given (R196 to R199, R202). -/
theorem initSlot_collab (sid : Sid) (b : Bank) (c : Chan) (off : Word) (s : State) :
    (initSlot sid b c off s).chan (slot b c) =
      { s.chan (slot b c) with
        configured := some (off, (s.session sid).basePin), enabled := true, fifo := []
        armed := some (s.session sid).maxCounter } ∧
    (∀ i, i ≠ slot b c → (initSlot sid b c off s).chan i = s.chan i) ∧
    (initSlot sid b c off s).bankEnv b = { s.bankEnv b with lineEn := (s.bankEnv b).lineEn ||| 0b1111 } ∧
    (∀ b', b' ≠ b → (initSlot sid b c off s).bankEnv b' = s.bankEnv b') := by
  refine ⟨?_, ?_, ?_, ?_⟩
  · simp [initSlot, markInitialized, emitAll, setupCalls, bindSlot, emit_chan, react]
  · intro i hi
    simp [initSlot, markInitialized, emitAll, setupCalls, bindSlot, emit_chan, react, setChan_chan, hi]
  · simp [initSlot, markInitialized, emitAll, setupCalls, bindSlot, emit_bankEnv, react, allLines]
  · intro b' hb
    simp [initSlot, markInitialized, emitAll, setupCalls, bindSlot, emit_bankEnv, react, setBank_bank, hb]

@[simp] theorem emitAll_draws (cs : List Call) (s : State) :
    (emitAll cs s).collab.answers = s.collab.answers ∧ (emitAll cs s).collab.draws = s.collab.draws := by
  induction cs generalizing s with
  | nil => exact ⟨rfl, rfl⟩
  | cons c cs ih =>
    have := ih (emit c s)
    simp only [emitAll, List.foldl_cons, emit_collab, react_draws] at this ⊢
    exact this

theorem initSlot_draws (sid : Sid) (b : Bank) (c : Chan) (off : Word) (s : State) :
    (initSlot sid b c off s).collab.answers = s.collab.answers ∧
    (initSlot sid b c off s).collab.draws = s.collab.draws := by
  simp [initSlot, markInitialized, bindSlot]

theorem initSlot_loadCount (sid : Sid) (b : Bank) (c : Chan) (off : Word) (s : State) (b' : Bank) :
    loadCount b' (initSlot sid b c off s) = loadCount b' s := by
  simp [loadCount, initSlot_calls]

end Sys2Proof.Machine
end

