-- ==== Sys2Proof/Laws/Step.lean ====
section
/-! SUPPORT. What one instruction, one command at a port and one step can do, said once: the case analysis the claims
about every step go through. -/

namespace Sys2Proof.Machine

/-- Everything an instruction run from `s` can leave as its next state. -/
inductive Effect (s : State) : State → Prop where
  /-- R97. -/
  | refused (code : RefuseCode) : Effect s (refuse code s)
  /-- A read-only answer (R66). -/
  | answered (ws : List Word) : Effect s (respond ws s)
  /-- CONSTRUCT (R141). -/
  | constructed (sid : Sid) (pin : Word) (timeout : Word64) (exists_ : sid.toNat < s.cfg.nSess)
      (absent : (s.session sid).fsm = .absent) (fits : maxCounterOf s.cfg timeout < 2 ^ 32) :
      Effect s (respond [0] (setSession sid
        { s.session sid with
          basePin := pin, timeoutUs := timeout, maxCounter := BitVec.ofNat 32 (maxCounterOf s.cfg timeout)
          fsm := .uninitialized } s))
  /-- INIT or ALLOC when `allocate` fails (R119, R145). -/
  | allocFailed (s0 : State) (ws : List Word) (asked : Asked s s0) : Effect s (respond ws s0)
  /-- INIT or ALLOC when the collaborator's answer is out of contract (R115). -/
  | arbitration (s0 : State) (b : Bank) (n : Nat) (asked : Asked s s0) (answer : reserveAnswer b s0 = some n)
      (bad : ¬(n < 4 ∧ s.ownerAt (slot b (BitVec.ofNat 2 n)) = none)) :
      Effect s (raiseFatal .arbitration (reserveAsked b s0))
  /-- ALLOC and ALLOC.P on the ARB port (R119). -/
  | allocated (s0 : State) (b : Bank) (c : Chan) (sid : Sid) (ws : List Word) (port : s.port = .arb)
      (asked : Asked s s0) (answer : reserveAnswer b s0 = some c.toNat) (free : s.ownerAt (slot b c) = none) :
      Effect s (respond ws (claimed b c sid s0))
  /-- A successful INIT (R144). -/
  | initialized (s0 : State) (b : Bank) (c : Chan) (sid : Sid) (exists_ : sid.toNat < s.cfg.nSess)
      (uninit : (s.session sid).fsm = .uninitialized)
      (asked : Asked s s0) (answer : reserveAnswer b s0 = some c.toNat) (free : s.ownerAt (slot b c) = none) :
      Effect s (respond [0] (initSlot sid b c ((claimed b c sid s0).offsetAt b) (claimed b c sid s0)))
  /-- A capture whose interrupt is not pending: nothing is served (R228). -/
  | captured (b : Bank) (c : Chan) (d r : Word) :
      Effect s (setCollab (capture (slot b c) d r s.timeUs s.collab) s)
  /-- A capture served by its owner's `on_capture` (R231). -/
  | capturedServed (b : Bank) (c : Chan) (d r : Word) (sid : Sid) (owner : s.ownerAt (slot b c) = some sid) :
      Effect s (onCapture sid (setCollab (capture (slot b c) d r s.timeUs s.collab) s))
  /-- A capture on a slot no session owns (R232). -/
  | capturedUnresolved (b : Bank) (c : Chan) (d r : Word) (owner : s.ownerAt (slot b c) = none) :
      Effect s (raiseFatal .unresolved (setCollab (capture (slot b c) d r s.timeUs s.collab) s))
  /-- A watchdog expiry (R175). -/
  | expired (sid : Sid) (enabled : expiryEnabled sid s = true) : Effect s (onExpiry sid s)
  /-- The time base moves (R240). -/
  | timed (now : Word64) (forwards : s.timeUs ≤ now) : Effect s (setTime now s)

theorem sessionCommand_effect {sid : Sid} {allowed : List Fsm} {s k t : State}
    (h : sessionCommand sid allowed s k = .next t)
    (hk : sid.toNat < s.cfg.nSess → (s.session sid).fsm ∈ allowed → Effect s k) : Effect s t := by
  obtain ⟨-, ⟨code, rfl⟩ | ⟨rfl, -, hn, hf⟩⟩ := sessionCommand_next h
  · exact .refused code
  · exact hk hn hf

theorem initSession_effect {sid : Sid} {s : State} (hn : sid.toNat < s.cfg.nSess)
    (hf : (s.session sid).fsm = .uninitialized) : Effect s (initSession sid s) := by
  unfold initSession
  rcases allocate_spec sid none s with ⟨s0, b, c, ha, hr, ho, -, he⟩ | ⟨s0, ha, he⟩ | ⟨s0, b, n, ha, hr, hbad, he⟩ <;>
    simp only [he]
  · exact .initialized s0 b c sid hn hf ha hr ho
  · exact .allocFailed s0 _ ha
  · exact .arbitration s0 b n ha hr hbad

theorem allocCommand_effect {sid : Sid} {pref : Option Bank} {s t : State} (h : allocCommand sid pref s = .next t) :
    Effect s t := by
  unfold allocCommand at h
  obtain ⟨-, h⟩ := whenRunning_next s h
  split at h
  · cases h; exact .refused _
  · rename_i hp
    split at h
    · cases h; exact .refused _
    · rcases allocate_spec sid pref s with
        ⟨s0, b, c, ha, hr, ho, -, he⟩ | ⟨s0, ha, he⟩ | ⟨s0, b, n, ha, hr, hbad, he⟩ <;>
        simp only [he] at h <;> cases h
      · exact .allocated s0 b c sid _ (by simpa using hp) ha hr ho
      · exact .allocFailed s0 _ ha
      · exact .arbitration s0 b n ha hr hbad

theorem queryCommand_effect {w : Word} {s t : State} (h : queryCommand w s = .next t) : Effect s t := by
  unfold queryCommand at h
  obtain ⟨-, h⟩ := whenRunning_next s h
  split at h <;> cases h
  · exact .refused _
  · exact .answered _

theorem stimulusCommand_next {s t : State} {k : Host.Outcome State Fault Refusal} (h : stimulusCommand s k = .next t) :
    t = refuse .port s ∨ (s.port = .stimulus ∧ k = .next t) := by
  unfold stimulusCommand at h
  obtain ⟨-, h⟩ := whenRunning_next s h
  split at h
  · cases h; exact .inl rfl
  · exact .inr ⟨by simpa using ‹¬ s.port ≠ .stimulus›, h⟩

theorem captureAndServe_effect (b : Bank) (c : Chan) (d r : Word) (s : State) :
    Effect s (captureAndServe b c d r s) := by
  unfold captureAndServe
  dsimp only
  split
  · cases ho : s.ownerAt (slot b c) with
    | none => rw [serveCapture_unowned (by simpa using ho)]; exact .capturedUnresolved b c d r ho
    | some sid => rw [serveCapture_owned (by simpa using ho)]; exact .capturedServed b c d r sid ho
  · exact .captured b c d r

/-- Everything an instruction can do when it answers a next state. -/
theorem exec_effect {i : Instr} {s t : State} (h : exec i s = .next t) : Effect s t := by
  cases i with
  | construct sid pin timeout =>
    refine sessionCommand_effect h fun hn hf => ?_
    rcases construct_cases sid pin timeout s with ⟨-, e⟩ | ⟨hm, e⟩ <;> rw [e]
    · exact .refused _
    · exact .constructed sid pin timeout hn (by simpa using hf) hm
  | init sid => exact sessionCommand_effect h fun hn hf => initSession_effect hn (by simpa using hf)
  | getdir sid => exact sessionCommand_effect h fun _ _ => .answered _
  | getper sid => exact sessionCommand_effect h fun _ _ => .answered _
  | getbank sid => exact sessionCommand_effect h fun _ _ => .answered _
  | alloc sid => exact allocCommand_effect h
  | allocP sid pref => exact allocCommand_effect h
  | resolve b c => exact queryCommand_effect h
  | bankuse b => exact queryCommand_effect h
  | progoff b => exact queryCommand_effect h
  | evCapture b c d r =>
    obtain rfl | ⟨-, e⟩ := stimulusCommand_next h
    · exact .refused _
    · cases e; exact captureAndServe_effect b c d r s
  | evWdexp sid =>
    obtain rfl | ⟨-, e⟩ := stimulusCommand_next h
    · exact .refused _
    · split at e <;> cases e
      exact .expired sid ‹_›
  | evTime now =>
    obtain rfl | ⟨-, e⟩ := stimulusCommand_next h
    · exact .refused _
    · split at e <;> cases e
      exact .timed now ‹_›

/-- An instruction writes no session but the one `sessionWritten` gives (R22). -/
theorem exec_session {i : Instr} {s t : State} (h : exec i s = .next t) {x : Sid} (hx : sessionWritten i s ≠ some x) :
    t.session x = s.session x := by
  have host : ∀ {sid allowed k}, sessionCommand sid allowed s k = .next t → k.session x = s.session x →
      t.session x = s.session x := by
    intro sid allowed k h hk
    obtain ⟨-, ⟨code, rfl⟩ | ⟨rfl, -⟩⟩ := sessionCommand_next h
    · simp
    · exact hk
  have alloc : ∀ {sid pref}, allocCommand sid pref s = .next t → t.session x = s.session x := by
    intro sid pref h
    unfold allocCommand at h
    obtain ⟨-, h⟩ := whenRunning_next s h
    split at h
    · cases h; simp
    · split at h
      · cases h; simp
      · rcases allocate_spec sid pref s with
          ⟨s0, b, c, ha, -, -, -, he⟩ | ⟨s0, ha, he⟩ | ⟨s0, b, n, ha, -, -, he⟩ <;> rw [he] at h <;> cases h
        · simp [claimed_session, ha.session]
        · simp [ha.session]
        · simp [State.session, reserveAsked_keeps, ha.sessions]
  have query : ∀ {w}, queryCommand w s = .next t → t.session x = s.session x := by
    intro w h
    unfold queryCommand at h
    obtain ⟨-, h⟩ := whenRunning_next s h
    split at h <;> cases h <;> simp
  cases i with
  | construct sid pin timeout =>
    have hne : x ≠ sid := fun e => hx (by rw [e]; rfl)
    refine host h ?_
    rcases construct_cases sid pin timeout s with ⟨-, e⟩ | ⟨-, e⟩ <;> rw [e] <;> simp [setSession_session, hne]
  | init sid =>
    have hne : x ≠ sid := fun e => hx (by rw [e]; rfl)
    refine host h ?_
    unfold initSession
    rcases allocate_spec sid none s with
      ⟨s0, b, c, ha, -, -, -, he⟩ | ⟨s0, ha, he⟩ | ⟨s0, b, n, ha, -, -, he⟩ <;> simp only [he]
    · simp [initSlot_session_ne hne, claimed_session, ha.session]
    · simp [ha.session]
    · simp [State.session, reserveAsked_keeps, ha.sessions]
  | getdir sid => exact host h (by simp)
  | getper sid => exact host h (by simp)
  | getbank sid => exact host h (by simp)
  | alloc sid => exact alloc h
  | allocP sid pref => exact alloc h
  | resolve b c => exact query h
  | bankuse b => exact query h
  | progoff b => exact query h
  | evCapture b c d r =>
    obtain rfl | ⟨-, e⟩ := stimulusCommand_next h
    · simp
    · cases e
      have hs : (captured b c d r s).session x = s.session x := rfl
      rw [← hs]
      unfold captureAndServe
      dsimp only
      split
      · cases ho : s.ownerAt (slot b c) with
        | none => rw [serveCapture_unowned (by simpa using ho)]; simp [hs]
        | some sid =>
          have hne : x ≠ sid := fun e => hx (by rw [e]; exact ho)
          rw [serveCapture_owned (by simpa using ho)]
          exact (onCapture_served sid (captured b c d r s)).others x hne
      · rfl
  | evWdexp sid =>
    have hne : x ≠ sid := fun e => hx (by rw [e]; rfl)
    obtain rfl | ⟨-, e⟩ := stimulusCommand_next h
    · simp
    · split at e <;> cases e
      exact (onExpiry_served sid 0 s).others x hne
  | evTime now =>
    obtain rfl | ⟨-, e⟩ := stimulusCommand_next h
    · simp
    · split at e <;> cases e
      rfl

/-- An instruction never runs on a halted block (R225). -/
theorem exec_halted {i : Instr} {s : State} (h : s.fault.halted = true) :
    exec i s = .fault (.halted s.fault.code) := by
  cases i <;> exact whenRunning_halted s h

/-- A running block answers a next state only through a running `exec` (R225). -/
theorem exec_next_running {i : Instr} {s t : State} (h : exec i s = .next t) : s.fault.halted = false := by
  cases hh : s.fault.halted with
  | false => rfl
  | true => rw [exec_halted hh] at h; cases h

/-! ## A command at a port -/

/-- A command is partly received at the HOST port exactly when words wait there whose head word asks for more (R64). -/
theorem hostWaiting_iff (s : State) :
    hostWaiting s = true ↔ ∃ w ext, s.rxAt .host = w :: ext ∧ ext.length < extensionWords w := by
  unfold hostWaiting commandReady
  cases hr : s.rxAt .host with
  | nil => simp
  | cons w ext =>
    by_cases hl : ext.length < extensionWords w
    · exact iff_of_true (by simp [decode, hl]) ⟨w, ext, rfl, hl⟩
    · refine iff_of_false (by cases hd : decodeHead w (ext.take (extensionWords w)) <;> simp [decode, hl, hd]) ?_
      rintro ⟨w', ext', he, hl'⟩
      cases he
      exact hl hl'

theorem hostWaiting_false {s : State} (h : HostIdle s) : hostWaiting s = false := by
  rw [Bool.eq_false_iff, Ne, hostWaiting_iff]
  rintro ⟨w, ext, hr, hl⟩
  obtain h | ⟨w', ext', hr', hl'⟩ := h
  · rw [h] at hr; cases hr
  · rw [hr'] at hr; cases hr; omega

/-- On a running block that waits for no HOST command, taking a command is reading it and running it. -/
theorem takeCommand_idle {p : Port} {ws : List Word} {s : State} (hr : s.fault.halted = false)
    (hi : p = .host ∨ hostWaiting s = false) :
    takeCommand p ws s = match decode ws with
      | .incomplete => .next (setRx p ws s)
      | .illegal _ rest => .next (refuse .illegal (setPort p (setRx p rest s)))
      | .command i rest => exec i (setPort p (setRx p rest s)) := by
  have hn : ¬(p ≠ .host ∧ hostWaiting s = true) := by
    rintro ⟨h1, h2⟩
    rcases hi with hi | hi
    · exact h1 hi
    · rw [hi] at h2; cases h2
  exact (whenRunning_running s hr).trans ((if_neg hn).trans (by cases decode ws <;> rfl))

/-- What taking a command from the words at a port can do: wait, refuse an illegal command, or run one. -/
theorem takeCommand_next {p : Port} {ws : List Word} {s t : State} (h : takeCommand p ws s = .next t) :
    s.fault.halted = false ∧
      (t = setRx p ws s ∨
        (∃ why rest, decode ws = .illegal why rest ∧ t = refuse .illegal (setPort p (setRx p rest s))) ∨
        (∃ i rest, decode ws = .command i rest ∧ exec i (setPort p (setRx p rest s)) = .next t)) := by
  obtain ⟨hrun, h⟩ := whenRunning_next s h
  refine ⟨hrun, ?_⟩
  split at h
  · cases h; exact .inl rfl
  cases hd : decode ws with
  | incomplete => rw [hd] at h; cases h; exact .inl rfl
  | illegal why rest => rw [hd] at h; cases h; exact .inr (.inl ⟨why, rest, rfl, rfl⟩)
  | command i rest => rw [hd] at h; exact .inr (.inr ⟨i, rest, rfl, h⟩)

/-! ## The block left to itself -/

/-- What the block does with an empty agenda: serve a pending capture, serve a due watchdog, take a received command,
or nothing. -/
theorem settle_next {s t : State} (h : settle s = .next t) :
    s.fault.halted = false ∧
      ((∃ i, pendingSlot s i = true ∧ t = serveCapture (bankOf i) (chanOf i) s) ∨
        (∃ sid, expiryEnabled sid s = true ∧ t = onExpiry sid s) ∨
        (∃ p, commandReady p s = true ∧ takeCommand p (s.rxAt p) s = .next t) ∨
        t = s) := by
  obtain ⟨hrun, h⟩ := whenRunning_next s h
  refine ⟨hrun, ?_⟩
  split at h
  · cases h; exact .inr (.inr (.inr rfl))
  unfold serveNext at h
  split at h
  · rename_i i hi
    cases h
    exact .inl ⟨i, List.find?_some hi, rfl⟩
  · split at h
    · rename_i sid hs
      cases h
      exact .inr (.inl ⟨sid, by simpa using List.find?_some hs, rfl⟩)
    · split at h
      · rename_i p hp
        exact .inr (.inr (.inl ⟨p, by simpa using List.find?_some hp, h⟩))
      · cases h
        exact .inr (.inr (.inr rfl))

/-- A step performs the next event, or lets the block settle when there is none. -/
theorem step_eq (s : State) :
    step s = match s.agenda with
      | [] => settle s
      | e :: rest => perform e (setAgenda rest s) := rfl

/-- The demultiplexer takes a pending capture (R231). -/
theorem step_serve {s : State} {b : Bank} {c : Chan} {ag : List Event} (hr : s.fault.halted = false)
    (hi : HostIdle s) (ha : s.agenda = .serve b c :: ag) (hp : pending b c s = true) :
    step s = .next (serveCapture b c (setAgenda ag s)) := by
  rw [step_eq, ha]
  exact (whenRunning_running (setAgenda ag s) hr).trans
    (if_pos ⟨hp, hostWaiting_false (s := setAgenda ag s) hi⟩)

/-- An idle block left to itself serves the first pending capture of IRQ_ORDER (R233). -/
theorem step_settle_capture {s : State} {b : Bank} {c : Chan} (hr : s.fault.halted = false) (hi : HostIdle s)
    (ha : s.agenda = []) (hf : s.cfg.irqOrder.find? (pendingSlot s) = some (slot b c)) :
    step s = .next (serveCapture b c s) := by
  rw [step_eq, ha]
  refine (whenRunning_running s hr).trans ((if_neg (by simp [hostWaiting_false hi])).trans ?_)
  simp only [serveNext, hf, bankOf_slot, chanOf_slot]

/-! ## Everything a step can do -/

/-- `u` is `s` with nothing changed but the words waiting at the ports, the port in use, and the agenda, from which
events are only taken. -/
structure Prepared (s u : State) : Prop where
  cfg : u.cfg = s.cfg
  owner : u.owner = s.owner
  offset : u.offset = s.offset
  sessions : u.sessions = s.sessions
  fault : u.fault = s.fault
  collab : u.collab = s.collab
  timeUs : u.timeUs = s.timeUs
  calls : u.calls = s.calls
  responses : u.responses = s.responses
  agenda : ∀ e ∈ u.agenda, e ∈ s.agenda

theorem Prepared.refl (s : State) : Prepared s s := ⟨rfl, rfl, rfl, rfl, rfl, rfl, rfl, rfl, rfl, fun _ h => h⟩

theorem Prepared.session {s u : State} (h : Prepared s u) (sid : Sid) : u.session sid = s.session sid := by
  simp only [State.session, h.sessions]

theorem Prepared.ownerAt {s u : State} (h : Prepared s u) (i : Slot) : u.ownerAt i = s.ownerAt i := by
  simp only [State.ownerAt, h.owner]

theorem Prepared.offsetAt {s u : State} (h : Prepared s u) (b : Bank) : u.offsetAt b = s.offsetAt b := by
  simp only [State.offsetAt, h.offset]

theorem Prepared.chan {s u : State} (h : Prepared s u) (i : Slot) : u.chan i = s.chan i := by
  simp only [State.chan, h.collab]

theorem Prepared.bankEnv {s u : State} (h : Prepared s u) (b : Bank) : u.bankEnv b = s.bankEnv b := by
  simp only [State.bankEnv, h.collab]

theorem Prepared.bankInUse {s u : State} (h : Prepared s u) (b : Bank) : bankInUse b u = bankInUse b s :=
  bankInUse_congr h.owner b

theorem Prepared.loadCount {s u : State} (h : Prepared s u) (b : Bank) : loadCount b u = loadCount b s := by
  simp only [Sys2Proof.Machine.loadCount, h.calls]

theorem Prepared.pending {s u : State} (h : Prepared s u) (b : Bank) (c : Chan) : pending b c u = pending b c s := by
  simp only [Sys2Proof.Machine.pending, h.chan, h.bankEnv]

/-- Nothing waits at the ARB port and nothing to come reaches it (R245). -/
abbrev ArbQuiet (s : State) : Prop := s.rx.arb = [] ∧ ∀ e ∈ s.agenda, e.leavesArb = true

/-- Everything a step can leave as its next state: an agenda popped or words kept, then at most one operation. -/
inductive StepEffect (s : State) : State → Prop where
  /-- Words wait, or nothing happens. -/
  | waited (u : State) (prepared : Prepared s u) (quiet : ArbQuiet s → ArbQuiet u) : StepEffect s u
  /-- An instruction, or the answer to an illegal command. -/
  | ran (u t : State) (prepared : Prepared s u) (running : s.fault.halted = false) (quiet : ArbQuiet s → ArbQuiet u)
      (port : ArbQuiet s → u.port ≠ .arb) (effect : Effect u t) : StepEffect s t
  /-- A due watchdog (R175). -/
  | expired (sid : Sid) (running : s.fault.halted = false) (enabled : expiryEnabled sid s = true) :
      StepEffect s (onExpiry sid s)
  /-- A pending capture served by its owner (R231). -/
  | served (u : State) (b : Bank) (c : Chan) (sid : Sid) (prepared : Prepared s u) (running : s.fault.halted = false)
      (quiet : ArbQuiet s → ArbQuiet u) (pend : pending b c s = true) (owner : s.ownerAt (slot b c) = some sid) :
      StepEffect s (onCapture sid u)
  /-- A pending capture nobody owns (R232). -/
  | unresolved (u : State) (b : Bank) (c : Chan) (prepared : Prepared s u) (running : s.fault.halted = false)
      (quiet : ArbQuiet s → ArbQuiet u) (pend : pending b c s = true) (owner : s.ownerAt (slot b c) = none) :
      StepEffect s (raiseFatal .unresolved u)
  /-- The collaborator or another user of it moves (R192, R194, R203, R207(a)). -/
  | environment (u : State) (k : Collab) (prepared : Prepared s u) (quiet : ArbQuiet s → ArbQuiet u)
      (move : (∃ b c d r ag, s.agenda = .capture b c d r :: ag ∧ k = capture (slot b c) d r s.timeUs s.collab) ∨
        (∃ b c ag, s.agenda = .strayFlag b c :: ag ∧ k = strayFlag (slot b c) s.timeUs s.collab) ∨
        (∃ b room off ag, s.agenda = .program b room off :: ag ∧ k = program b room off s.collab) ∨
        (∃ call, s.cfg.collabClosed = false ∧ k = react call s.collab)) :
      StepEffect s (setCollab k u)
  /-- RESET (R250). -/
  | reset (u : State) (prepared : Prepared s u) (quiet : ArbQuiet s → ArbQuiet u) (isReset : nextIsReset s = true) :
      StepEffect s (resetBlock u)

/-- Popping the agenda prepares. -/
theorem prepared_setAgenda {s : State} {e : Event} {ag : List Event} (h : s.agenda = e :: ag) :
    Prepared s (setAgenda ag s) ∧ (ArbQuiet s → ArbQuiet (setAgenda ag s)) := by
  refine ⟨⟨rfl, rfl, rfl, rfl, rfl, rfl, rfl, rfl, rfl, ?_⟩, ?_⟩
  · intro x hx; rw [h]; exact List.mem_cons_of_mem _ hx
  · rintro ⟨h1, h2⟩
    exact ⟨h1, fun x hx => h2 x (by rw [h]; exact List.mem_cons_of_mem _ hx)⟩

/-- Taking words from a port and setting the port in use prepares. -/
theorem prepared_setRx {s u : State} (p : Port) (ws : List Word) (h : Prepared s u) : Prepared s (setRx p ws u) := by
  refine ⟨?_, ?_, ?_, ?_, ?_, ?_, ?_, ?_, ?_, ?_⟩
  · exact (setRx_cfg u p ws).trans h.cfg
  · exact (setRx_owner u p ws).trans h.owner
  · exact (setRx_offset u p ws).trans h.offset
  · exact (setRx_sessions u p ws).trans h.sessions
  · exact (setRx_fault u p ws).trans h.fault
  · exact (setRx_collab u p ws).trans h.collab
  · exact (setRx_timeUs u p ws).trans h.timeUs
  · exact (setRx_calls u p ws).trans h.calls
  · exact (setRx_responses u p ws).trans h.responses
  · intro e he; rw [setRx_agenda] at he; exact h.agenda e he

theorem prepared_setPort {s u : State} (p : Port) (h : Prepared s u) : Prepared s (setPort p u) :=
  ⟨h.cfg, h.owner, h.offset, h.sessions, h.fault, h.collab, h.timeUs, h.calls, h.responses, h.agenda⟩

theorem arbQuiet_setRx {u : State} {p : Port} (ws : List Word) (hp : p ≠ .arb) (h : ArbQuiet u) :
    ArbQuiet (setRx p ws u) := by
  refine ⟨?_, ?_⟩
  · cases p
    · exact h.1
    · exact absurd rfl hp
    · exact h.1
  · intro e he; rw [setRx_agenda] at he; exact h.2 e he

/-- Taking a command, as part of a step. -/
theorem takeCommand_stepEffect {s u t : State} {p : Port} {ws : List Word} (hu : Prepared s u)
    (hq : ArbQuiet s → ArbQuiet u) (hp : ArbQuiet s → p ≠ .arb) (h : takeCommand p ws u = .next t) : StepEffect s t := by
  obtain ⟨hrun, rfl | ⟨why, rest, -, rfl⟩ | ⟨i, rest, -, he⟩⟩ := takeCommand_next h
  · exact .waited _ (prepared_setRx p ws hu) fun h => arbQuiet_setRx ws (hp h) (hq h)
  · exact .ran _ _ (prepared_setPort p (prepared_setRx p rest hu)) (hu.fault ▸ hrun)
      (fun h => arbQuiet_setRx rest (hp h) (hq h)) hp (.refused .illegal)
  · exact .ran _ _ (prepared_setPort p (prepared_setRx p rest hu)) (hu.fault ▸ hrun)
      (fun h => arbQuiet_setRx rest (hp h) (hq h)) hp (exec_effect he)

/-- Serving a pending capture, as part of a step. -/
theorem serveCapture_stepEffect {s u : State} {b : Bank} {c : Chan} (hu : Prepared s u) (hrun : s.fault.halted = false)
    (hq : ArbQuiet s → ArbQuiet u) (hpend : pending b c s = true) : StepEffect s (serveCapture b c u) := by
  cases ho : s.ownerAt (slot b c) with
  | none => rw [serveCapture_unowned (by rw [hu.ownerAt, ho])]; exact .unresolved u b c hu hrun hq hpend ho
  | some sid => rw [serveCapture_owned (by rw [hu.ownerAt, ho])]; exact .served u b c sid hu hrun hq hpend ho

/-- A step that answers a next state did one of these things and nothing else. -/
theorem step_effect {s t : State} (h : step s = .next t) : StepEffect s t := by
  rw [step_eq] at h
  split at h
  · obtain ⟨hrun, ⟨i, hp, rfl⟩ | ⟨sid, he, rfl⟩ | ⟨p, hp, ht⟩ | rfl⟩ := settle_next h
    · exact serveCapture_stepEffect (.refl s) hrun id hp
    · exact .expired sid hrun he
    · refine takeCommand_stepEffect (.refl s) id ?_ ht
      rintro hq rfl
      have : s.rxAt .arb = [] := hq.1
      simp [commandReady, this, decode] at hp
    · exact .waited _ (.refl _) id
  · rename_i e ag hag
    obtain ⟨hu, hq⟩ := prepared_setAgenda hag
    cases e with
    | port p ws =>
      refine takeCommand_stepEffect hu hq ?_ h
      rintro ⟨-, h2⟩ rfl
      have := h2 (.port .arb ws) (by rw [hag]; exact List.mem_cons_self)
      cases this
    | capture b c d r => cases h; exact .environment _ _ hu hq (.inl ⟨b, c, d, r, ag, hag, rfl⟩)
    | strayFlag b c => cases h; exact .environment _ _ hu hq (.inr (.inl ⟨b, c, ag, hag, rfl⟩))
    | program b room off => cases h; exact .environment _ _ hu hq (.inr (.inr (.inl ⟨b, room, off, ag, hag, rfl⟩)))
    | foreign call =>
      simp only [perform] at h
      split at h
      · cases h
      · cases h
        exact .environment _ _ hu hq (.inr (.inr (.inr ⟨call, Bool.eq_false_iff.mpr ‹¬(setAgenda ag s).cfg.collabClosed = true›, rfl⟩)))
    | serve b c =>
      obtain ⟨hrun, h⟩ := whenRunning_next _ h
      split at h
      · rename_i hp
        cases h
        exact serveCapture_stepEffect hu hrun hq (by rw [← hu.pending]; exact hp.1)
      · cases h
    | reset => cases h; exact .reset _ hu hq (by simp [nextIsReset, hag])

end Sys2Proof.Machine
end

