-- ==== Sys2Proof/Tests/Slice0.lean ====
section
/-! SUPPORT. Tests of the model on the vectors of spec 95_test_vectors.md and the worked encodings of
30_encoding.md R102, and for each statement with hypotheses a state that meets them. -/

namespace Sys2Proof.Tests

open Sys2Proof.Machine

/-! ## WellFormed: the one check, refused and passed (R89, R97) -/

/-- NSESS = 9, as in T-R1. -/
def nine : Config := { Config.reference with nSess := 9 }

theorem test_wellFormed_refuses :
    wellFormed nine (.construct 9 0 0) = false ∧ wellFormed nine (.init 9) = false ∧
    wellFormed nine (.getdir 15) = false ∧ wellFormed nine (.getper 9) = false ∧ wellFormed nine (.getbank 9) = false ∧
    wellFormed nine (.alloc 9) = false ∧ wellFormed nine (.allocP 9 0) = false ∧
    wellFormed nine (.evWdexp 9) = false := by decide

theorem test_wellFormed_passes :
    wellFormed nine (.init 8) = true ∧ wellFormed Config.reference (.init 15) = true ∧
    wellFormed nine (.resolve 1 3) = true ∧ wellFormed nine (.bankuse 1) = true ∧ wellFormed nine (.progoff 1) = true ∧
    wellFormed nine (.evCapture 1 3 0 0) = true ∧ wellFormed nine (.evTime 0) = true := by decide

/-! ## Decoding: words written out from the formats of R82 to R89; the vectors T-E -/

/-- Format S: OPC in 31:28, SID in 27:24, zeros. -/
theorem test_decode_format_S :
    decode [0b0010_1001_0000_0000_0000_0000_0000_0000] = .command (.init 9) [] ∧
    decode [0b0011_1010_0000_0000_0000_0000_0000_0000] = .command (.getdir 10) [] ∧
    decode [0b0100_0001_0000_0000_0000_0000_0000_0000] = .command (.getper 1) [] ∧
    decode [0b0101_1111_0000_0000_0000_0000_0000_0000] = .command (.getbank 15) [] ∧
    decode [0b1101_0111_0000_0000_0000_0000_0000_0000] = .command (.evWdexp 7) [] := by decide

/-- Format SX: the low word of the timeout comes first (T-E2, T-E3). -/
theorem test_decode_format_SX :
    decode [0b0001_1111_0000_0000_0000_0000_0000_0000, 0xFFFFFFFF, 0xFFFFFFD4, 0] =
      .command (.construct 15 4294967295 4294967252) [] ∧
    decode [0x13000000, 0, 0, 1] = .command (.construct 3 0 4294967296) [] := by decide

/-- Format A: PV is bit 1 and PB is bit 0 (T-E8 to T-E11). -/
theorem test_decode_format_A :
    decode [0b1000_0011_0000_0000_0000_0000_0000_0000] = .command (.alloc 3) [] ∧
    decode [0b1000_0011_0000_0000_0000_0000_0000_0010] = .command (.allocP 3 0) [] ∧
    decode [0b1000_0011_0000_0000_0000_0000_0000_0011] = .command (.allocP 3 1) [] ∧
    decode [0b1000_0011_0000_0000_0000_0000_0000_0001] = .illegal .bankWithoutPv [] := by decide

/-- Formats B and C: BANK is bit 0 in B, and bit 2 in C with CH in bits 1:0 (T-E13 to T-E17). -/
theorem test_decode_formats_B_C :
    decode [0b1010_0000_0000_0000_0000_0000_0000_0001] = .command (.bankuse 1) [] ∧
    decode [0b1011_0000_0000_0000_0000_0000_0000_0000] = .command (.progoff 0) [] ∧
    decode [0b1001_0000_0000_0000_0000_0000_0000_0110] = .command (.resolve 1 2) [] ∧
    decode [0x90000008] = .illegal .reservedBits [] ∧ decode [0xA0000002] = .illegal .reservedBits [] := by decide

/-- Formats EC and T (T-E18, T-E21, T-E22). -/
theorem test_decode_formats_EC_T :
    decode [0b1100_0000_0000_0000_0000_0000_0000_0101, 1, 0] = .command (.evCapture 1 1 1 0) [] ∧
    decode [0b1110_0000_0000_0000_0000_0000_0000_0000, 0x0000891C, 0] = .command (.evTime 35100) [] ∧
    decode [0xE0000001, 7, 8, 0x20000000] = .illegal .reservedBits [0x20000000] := by decide

/-- T-E23 and T-E24: no extension words are taken; T-E25: three are, with an illegal CONSTRUCT head. -/
theorem test_decode_illegal :
    decode [0x00000000] = .illegal .reservedOpcode [] ∧ decode [0x70000000] = .illegal .reservedOpcode [] ∧
    decode [0xF0000000, 1] = .illegal .reservedOpcode [1] ∧ decode [0x20800000] = .illegal .reservedBits [] ∧
    decode [0x10000001, 0x20000000, 0x30000000, 0x40000000, 0x30000000] = .illegal .reservedBits [0x30000000] := by
  decide

/-- R64: a stream that stops inside a command is incomplete. -/
theorem test_decode_incomplete :
    decode [0x10000000, 2, 35000] = .incomplete ∧ decode [0xC0000000, 0] = .incomplete ∧ decode [] = .incomplete := by
  decide

theorem test_decodeTableWord :
    decodeTableWord 32 0x29000000 = some (.init 9) ∧ decodeTableWord 128 (35000 * 2 ^ 64 + 2 * 2 ^ 32 + 0x10000000) =
      some (.construct 0 2 35000) ∧ decodeTableWord 32 0x10000000 = some (.construct 0 0 0) ∧
    decodeTableWord 32 0x20000001 = none := by decide

/-! ## States -/

/-- The state after an instruction, where there is one. -/
def after (i : Instr) (s : State) : Option State :=
  match exec i s with
  | .next t => some t
  | .fault _ => none
  | .refused _ => none

/-- The state after a step, where there is one. -/
def afterStep (s : State) : Option State :=
  match step s with
  | .next t => some t
  | .fault _ => none
  | .refused _ => none

/-- Session 0 after `CONSTRUCT s0, 2, 35000` (T-H1). -/
def constructed0 : Session :=
  { Session.reset with fsm := .uninitialized, basePin := 2, timeoutUs := 35000, maxCounter := 2187500 }

/-- Session 0 after INIT at time 100 (T-H17). -/
def session0 : Session := { constructed0 with fsm := .initialized, offset := 27, wd := .pending 35100 }

/-- The machine after T-H1. -/
def onlyConstructed : State := setSession 0 constructed0 State.reset

/-- The collaborator after INIT s0. -/
def collab0 : Collab :=
  setBank 0 { BankEnv.reset 27 with resident := true, lineEn := 0b1111 }
    (setChan 0
      { Channel.reset with reserved := true, configured := some (27, 2), enabled := true, armed := some 2187500 }
      Collab.reset)

/-- The machine after T-H1 and `INIT s0` at time 100, its calls but the load left out. -/
def opened : State :=
  logCall (.load 0 27) (setTime 100 (setSession 0 session0 (setOwner 0 (some 0) (setOffset 0 27
    (setCollab collab0 State.reset)))))

/-- The same with an instruction of the stimulus stream in progress. -/
def stimulus : State := setPort .stimulus opened

/-- A machine in the closed system whose slots are owned as given, with `u` as session 15. -/
def owning (owners : Vector (Option Sid) 8) (room0 room1 : Bool) (u : Session) : State :=
  let used (b : Bank) : Bool := allChans.any fun c => (owners[(slot b c).toNat]'(slot b c).isLt).isSome
  let channel (i : Slot) : Channel := { Channel.reset with reserved := (owners[i.toNat]'i.isLt).isSome }
  setSession 15 u
    { State.reset with
      owner := owners
      collab :=
        { Collab.reset with
          chans := #v[channel 0, channel 1, channel 2, channel 3, channel 4, channel 5, channel 6, channel 7]
          banks := #v[{ BankEnv.reset 27 with resident := used 0, room := room0 },
            { BankEnv.reset 11 with resident := used 1, room := room1 }] } }

/-- A constructed session, not initialized. -/
def fresh15 : Session := constructed0

/-- Slots 0 to 3 owned. -/
def bank0Full : Vector (Option Sid) 8 := #v[some 0, some 1, some 2, some 3, none, none, none, none]

/-- Slots 0 to 6 owned. -/
def sevenOwned : Vector (Option Sid) 8 := #v[some 0, some 1, some 2, some 3, some 4, some 5, some 6, none]

/-- All slots owned. -/
def allOwned : Vector (Option Sid) 8 := #v[some 0, some 1, some 2, some 3, some 4, some 5, some 6, some 7]

/-- No slot owned. -/
def noneOwned : Vector (Option Sid) 8 := Vector.replicate 8 none

/-- Slot 0 owned, in the open system, with the answers the collaborator will give. -/
def openSystem (answers : List (Option Nat)) : State :=
  setPort .arb { opened with
    cfg := { Config.reference with collabClosed := false }, collab := { opened.collab with answers := answers } }

/-! ## CONSTRUCT, INIT and the accessors (T-H, T-R) -/

/-- T-H1, and T-H16 with another CLOCK_RATE. -/
theorem test_construct :
    (after (.construct 0 2 35000) State.reset).map (fun t => (t.session 0, t.responses)) =
      some (constructed0, [⟨.host, false, [0]⟩]) ∧
    (after (.construct 0 2 35000) { State.reset with cfg := { Config.reference with clockRate := 48000000 } }).map
      (fun t => (t.session 0).maxCounter) = some 840000 := by decide

/-- T-H3, T-H8, T-H9, T-H10: the fraction is dropped, the product is not truncated. -/
theorem test_construct_range :
    (after (.construct 2 0 1) State.reset).map (fun t => (t.session 2).maxCounter) = some 62 ∧
    (after (.construct 2 0 68719476) State.reset).map (fun t => (t.session 2).maxCounter) = some 0xFFFFFFD2 ∧
    (after (.construct 2 0 68719477) State.reset).map (fun t => (t.session 2, t.responses)) =
      some (Session.reset, [⟨.host, true, [5]⟩]) ∧
    (after (.construct 2 0 18446744073709551615) State.reset).map (fun t => t.responses) =
      some [⟨.host, true, [5]⟩] := by decide

/-- T-H17. -/
theorem test_init :
    (after (.init 0) (setTime 100 onlyConstructed)).map
      (fun t => (t.session 0, t.ownerAt 0, t.offsetAt 0, t.responses, t.chan 0)) =
      some (session0, some 0, 27, [⟨.host, false, [0]⟩], collab0.chan 0) ∧
    (after (.init 0) (setTime 100 onlyConstructed)).map (fun t => t.calls) =
      some [.canLoad 0 true, .tryReserve 0 (some 0), .load 0 27, .pinPulldown 2, .pinPulldown 3, .configure 0 0 27 2,
        .enable 0 0, .clear 0 0, .enableLines 0 0b1111, .arm 0 0 2187500] := by decide

/-- T-H19: neither bank has room; and T-R4, T-R7: the wrong control state. -/
theorem test_init_fails :
    (after (.init 15) (owning noneOwned false false fresh15)).map (fun t => (t.session 15, t.calls, t.responses)) =
      some (fresh15, [.canLoad 0 false, .canLoad 1 false], [⟨.host, false, [0xFFFFFFFF]⟩]) ∧
    (after (.init 0) State.reset).map (fun t => t.responses) = some [⟨.host, true, [4]⟩] ∧
    (after (.init 0) opened).map (fun t => (t.owner.toList, t.responses)) = some (opened.owner.toList, [⟨.host, true, [4]⟩]) := by
  decide

/-- T-H11 and the direction latched in T-W3. -/
theorem test_getdir :
    (after (.getdir 0) onlyConstructed).map (fun t => t.responses) = some [⟨.host, false, [0]⟩] ∧
    (after (.getdir 0) (setSession 0 { session0 with direction := true } opened)).map (fun t => t.responses) =
      some [⟨.host, false, [1]⟩] := by decide

/-- T-H15, low word first; T-R5. -/
theorem test_getper :
    (after (.getper 4) (setSession 4 { session0 with periodUs := 0x4068B0A3D70A3D71 } opened)).map
      (fun t => t.responses) = some [⟨.host, false, [0xD70A3D71, 0x4068B0A3]⟩] ∧
    (after (.getper 0) State.reset).map (fun t => t.responses) = some [⟨.host, true, [4]⟩] := by decide

/-- T-H13, T-H14. -/
theorem test_getbank :
    (after (.getbank 0) onlyConstructed).map (fun t => t.responses) = some [⟨.host, false, [0xFFFFFFFF]⟩] ∧
    (after (.getbank 0) opened).map (fun t => t.responses) = some [⟨.host, false, [0]⟩] := by decide

/-- T-R1, T-R2, T-R3, T-R6: the order of the checks. -/
theorem test_order_of_checks :
    (afterStep { State.reset with cfg := nine, agenda := [.port .host [0x29000000]] }).map (fun t => t.responses) =
      some [⟨.host, true, [3]⟩] ∧
    (afterStep { State.reset with cfg := nine, agenda := [.port .host [0x29000001]] }).map (fun t => t.responses) =
      some [⟨.host, true, [1]⟩] ∧
    (after (.alloc 9) { State.reset with cfg := nine }).map (fun t => t.responses) = some [⟨.host, true, [2]⟩] ∧
    (after (.construct 0 7 68719477) onlyConstructed).map (fun t => (t.session 0, t.responses)) =
      some (constructed0, [⟨.host, true, [4]⟩]) := by decide

/-! ## The arbiter (T-A) -/

/-- T-A5(a) and (e). -/
theorem test_alloc :
    (after (.alloc 5) (setPort .arb State.reset)).map (fun t => (t.ownerAt 0, t.offsetAt 0, t.responses)) =
      some (some 5, 27, [⟨.arb, false, [0, 0x1B]⟩]) ∧
    (after (.alloc 9) (setPort .arb (owning allOwned true true fresh15))).map (fun t => (t.owner.toList, t.responses)) =
      some (allOwned.toList, [⟨.arb, false, [0xFFFFFFFF, 0]⟩]) := by decide

/-- T-A5(b): the argument names a bank not in use; T-A6: the collaborator answers an owned channel. -/
theorem test_allocP :
    (after (.allocP 6 1) (setPort .arb opened)).map (fun t => (t.ownerAt 1, t.responses)) =
      some (some 6, [⟨.arb, false, [1, 0x1B]⟩]) ∧
    (after (.allocP 6 0) (openSystem [some 0])).map (fun t => (t.fault.image, t.owner.toList, t.responses)) =
      some (0x80000004, opened.owner.toList, []) := by decide

/-- Slots 0 and 4 owned: both banks in use, neither full. -/
def bothInUse : Vector (Option Sid) 8 := #v[some 0, none, none, none, some 4, none, none, none]

/-- R114: with both banks in use the argument wins over the lower bank, which is taken without one. -/
theorem test_preferred :
    (after (.allocP 6 1) (setPort .arb (owning bothInUse true true fresh15))).map (fun t => t.responses) =
      some [⟨.arb, false, [5, 0]⟩] ∧
    (after (.alloc 6) (setPort .arb (owning bothInUse true true fresh15))).map (fun t => t.responses) =
      some [⟨.arb, false, [1, 0]⟩] := by decide

/-- The example of R121, on the HOST port; the stimulus stream does not accept it (R92). -/
theorem test_resolve :
    (after (.resolve 0 0) opened).map (fun t => t.responses) = some [⟨.host, false, [0]⟩] ∧
    (after (.resolve 0 1) opened).map (fun t => t.responses) = some [⟨.host, false, [0xFFFFFFFF]⟩] ∧
    (after (.resolve 0 0) stimulus).map (fun t => t.responses) = some [⟨.stimulus, true, [2]⟩] := by decide

/-- T-A3 and the example of R122. -/
theorem test_bankuse :
    (after (.bankuse 0) opened).map (fun t => t.responses) = some [⟨.host, false, [1]⟩] ∧
    (after (.bankuse 1) opened).map (fun t => t.responses) = some [⟨.host, false, [0]⟩] := by decide

/-- T-A2, T-A3. -/
theorem test_progoff :
    (after (.progoff 0) opened).map (fun t => t.responses) = some [⟨.host, false, [0x0000001B]⟩] ∧
    (after (.progoff 1) State.reset).map (fun t => t.responses) = some [⟨.host, false, [0]⟩] := by decide

/-! ## Events (T-C, T-W, T-X) -/

/-- T-C1 at time 100: the period 1000.0, direction 1, the watchdog due at 35100, the four calls, the channel rearmed. -/
theorem test_evCapture :
    (after (.evCapture 0 0 0 2125000) stimulus).map (fun t => (t.session 0).periodUs) = some 0x408F400000000000 ∧
    (after (.evCapture 0 0 0 2125000) stimulus).map (fun t => ((t.session 0).direction, (t.session 0).wd)) =
      some (true, .pending 35100) ∧
    (after (.evCapture 0 0 0 2125000) stimulus).map (fun t => t.calls) =
      some [.load 0 27, .readValue 0 0 (some 0), .readValue 0 0 (some 2125000), .flagClear 0 0, .arm 0 0 2187500] ∧
    (after (.evCapture 0 0 0 2125000) stimulus).map (fun t => t.chan 0) =
      some { collab0.chan 0 with flagTime := 100 } := ⟨by decide, by decide, by decide, by decide⟩

/-- T-C15: out of range; T-X2: nobody owns the channel; T-X3: the line is not enabled. -/
theorem test_evCapture_out_of_contract :
    (after (.evCapture 0 0 1 2187501) stimulus).map (fun t => (t.fault.image, t.session 0, (t.chan 0).irqFlag)) =
      some (0x80000002, { session0 with wd := .idle }, true) ∧
    (after (.evCapture 0 1 0 5) stimulus).map (fun t => (t.fault.image, t.session 0, (t.chan 1).fifo)) =
      some (0x80000001, session0, [0, 5]) ∧
    (after (.evCapture 1 2 0 5) stimulus).map (fun t => (t.fault.image, (t.chan 6).irqFlag)) = some (0, true) := by
  decide

/-- T-W3, T-W2. -/
theorem test_evWdexp :
    (after (.evWdexp 0) (setTime 35100 (setSession 0
      { session0 with direction := true, periodUs := 0x408F400000000000 } stimulus))).map
      (fun t => (t.session 0, (t.chan 0).armed)) =
      some ({ session0 with direction := true, wd := .idle }, some 2187500) ∧
    exec (.evWdexp 0) (setTime 35099 stimulus) = .refused .stimulusIllFormed := ⟨by decide, rfl⟩

/-- R240: only forwards. -/
theorem test_evTime :
    (after (.evTime 35100) stimulus).map (fun t => t.timeUs) = some 35100 ∧
    exec (.evTime 99) stimulus = .refused .stimulusIllFormed := ⟨by decide, rfl⟩

/-- T-C2, T-C3, T-C4, T-C5: the 64-bit images of periods. -/
theorem test_period_images :
    periodOf Config.reference 2187500 0 = 0x40E1170000000000 ∧ periodOf Config.reference 2187500 2187500 = 0 ∧
    periodOf Config.reference 2187500 2187499 = 0x3F90624DD2F1A9FC ∧
    periodOf Config.reference 2187500 2187497 = 0x3FA89374BC6A7EFA := by decide

/-- T-C6, T-C8, T-C10, T-C11, and T-L4 with US_PER_S = 1. -/
theorem test_period_images_rounded :
    periodOf Config.reference 2187500 1 = 0x40E116FF7CED9168 ∧
    periodOf Config.reference 1250000 1237655 = 0x4068B0A3D70A3D71 ∧
    periodOf Config.reference 62 0 = 0x3FEFBE76C8B43958 ∧
    periodOf Config.reference 4294967250 0 = 0x4190624DD0000000 ∧
    periodOf { Config.reference with usPerS := 1 } 2187500 2125000 = 0x3F50624DD2F1A9FC := by decide

/-- T-C16: a flag with nothing pushed. -/
theorem test_serve_empty :
    (afterStep (setCollab (strayFlag 0 100 opened.collab) { opened with agenda := [.serve 0 0] })).map
      (fun t => (t.fault.image, t.session 0)) = some (0x80000003, { session0 with wd := .idle }) := by decide

/-- T-X5 and T-Z2: RESET clears FAULT and drops a partial command; T-R9: a halted block answers nothing. -/
theorem test_reset_and_halt :
    (afterStep { opened with fault := faultOf .unresolved, rx := ⟨[0x10000000, 2], [], []⟩, agenda := [.reset] }).map
      (fun t => (t.fault.image, t.rx, t.ownerAt 0, t.session 0)) = some (0, Rx.reset, none, Session.reset) ∧
    step { opened with fault := faultOf .unresolved, agenda := [.port .host [0x40000000]] } =
      .fault (.halted 1) := ⟨by decide, rfl⟩

/-- R20, R33: the register images. -/
theorem test_images :
    ownerImage (some 9) = 0b11001 ∧ ownerImage none = 0 ∧ (faultOf .arbitration).image = 0x80000004 ∧
    FaultReg.reset.image = 0 := by decide

/-- A table word placed by `withFetchWord` is the very next instruction, on the port that accepts it. -/
theorem test_withFetchWord :
    (afterStep (State.reset.withFetchWord 128 (35000 * 2 ^ 64 + 2 * 2 ^ 32 + 0x10000000))).map (fun t => t.session 0) =
      some constructed0 ∧
    (afterStep (State.reset.withFetchWord 32 0x80000002)).map (fun t => t.ownerAt 0) = some (some 0) ∧
    (afterStep (State.reset.withFetchWord 32 0xE0000000)).map (fun t => t.timeUs) = some 0 := by decide

/-! ## Witnesses: for each statement with hypotheses, states and operands that meet them -/

/-- EncodeOfDecode. -/
theorem hyps_encodeOfDecode : decode [0x13000000, 0, 0, 1, 7] = .command (.construct 3 0 4294967296) [7] := by decide

/-- OpcodeRowsDisjoint: a word that a row selects. -/
theorem hyps_opcodeRowsDisjoint : (opcodeTable.filter fun r => r.selects 0x83000003).length = 1 := by decide

/-- HostIdle: nothing waiting at the HOST port, and one whole command waiting there. -/
theorem hyps_hostIdle : HostIdle opened ∧ HostIdle (setRx .host [0x30000000] opened) :=
  ⟨.inl (by decide), .inr ⟨0x30000000, [], by decide⟩⟩

/-- IllegalHeadsRefused: an illegal head with three extension words, and one with none. -/
theorem hyps_illegalHeads :
    illegalHead 0x10000001 ∧ [(1 : Word), 2, 3].length = extensionWords 0x10000001 ∧
    illegalHead 0x80000001 ∧ ([] : List Word).length = extensionWords 0x80000001 ∧
    Running opened ∧ opened.rxAt .host = [] ∧ opened.rxAt .arb = [] := by
  unfold illegalHead
  decide

/-- `opened` with one event to come. -/
def next (e : Event) (s : State) : State := setAgenda [e] s

/-- StepRunsDecodedCommand: a command whose first words already wait at the port; and one of the stimulus stream, with
nothing and with a whole command waiting at the HOST port (`hyps_hostIdle`). -/
theorem hyps_stepRuns :
    Running (next (.port .host [35000, 0]) (setRx .host [0x10000000, 2] opened)) ∧
    decode ((setRx .host [0x10000000, 2] opened).rxAt .host ++ [35000, 0]) = .command (.construct 0 2 35000) [] ∧
    decode ((setRx .host [0x30000000] opened).rxAt .stimulus ++ [0xE0000000, 35100, 0]) =
      .command (.evTime 35100) [] := by
  decide

/-- A capture pending on slot 0, and a CONSTRUCT at the HOST port of which two words are missing. -/
def waiting : State := setRx .host [0x10000000, 2] (setCollab (capture 0 0 5 100 opened.collab) opened)

/-- IncompleteCommandWaits: one word short; and a block that waits. -/
theorem hyps_incomplete :
    Running (next (.port .host [2, 35000]) (setRx .host [0x10000000] opened)) ∧
    (setRx .host [0x10000000] opened).rxAt .host ++ [2, 35000] = [0x10000000, 2, 35000] ∧
    [(2 : Word), 35000].length < extensionWords 0x10000000 ∧ Running waiting ∧
    waiting.rxAt .host = [0x10000000, 2] ∧ [(2 : Word)].length < extensionWords 0x10000000 ∧ waiting.agenda = [] := by
  decide

/-- R64, U23: the capture pending meanwhile is not served, and is once the missing words have come. -/
theorem test_partly_received_holds_block :
    step waiting = .next waiting ∧ step (next (.serve 0 0) waiting) = .refused .notEnabled ∧
    (afterStep (next (.port .host [35000, 0]) waiting)).map (fun t => (t.rx, t.responses)) =
      some (Rx.reset, [⟨.host, true, [4]⟩]) ∧
    (afterStep (setRx .host [] waiting)).map (fun t => (t.session 0).direction) = some true :=
  ⟨rfl, rfl, by decide, by decide⟩

/-- A halted block. -/
def halted (code : FatalCode) : State := { opened with fault := faultOf code }

/-- HaltedBlockTakesNoStep: a step that is no RESET still gives a next state, when the outside moves. -/
theorem hyps_halted :
    (halted .empty).fault.halted = true ∧
    (∃ t, step (next (.capture 0 0 1 5) (halted .empty)) = .next t) ∧
    nextIsReset (next (.capture 0 0 1 5) (halted .empty)) = false := ⟨by decide, ⟨_, rfl⟩, by decide⟩

/-- ResetGivesResetValues. -/
theorem hyps_reset : (next .reset (halted .range)).agenda = [.reset] := by decide

/-- The statements about every step: a step with each kind of event gives a next state, and is no RESET. -/
theorem hyps_steps :
    (∃ t, step (next (.capture 0 0 1 5) opened) = .next t) ∧
    (∃ t, step (next (.port .host [0x30000000]) opened) = .next t) ∧
    (∃ t, step (next (.strayFlag 0 3) opened) = .next t) ∧
    (∃ t, step (next (.program 1 false 3) opened) = .next t) ∧
    (∃ t, step (next (.serve 0 0) (setCollab (capture 0 0 5 100 opened.collab) opened)) = .next t) ∧
    (∃ t, step (next .reset opened) = .next t) ∧ (∃ t, step opened = .next t) ∧
    nextIsReset opened = false ∧ nextIsReset (next (.capture 0 0 1 5) opened) = false ∧
    opened.ownerAt 0 = some 0 ∧ bankInUse 0 opened = true ∧ (opened.session 0).fsm = .initialized ∧
    (onlyConstructed.session 0).fsm = .uninitialized ∧ (∃ t, step onlyConstructed = .next t) ∧
    nextSession (next (.port .host [0x30000000]) opened) ≠ some 0 ∧ nextSession opened ≠ some 0 ∧
    nextSession (next (.serve 0 0) (setCollab (capture 0 0 5 100 opened.collab) opened)) ≠ some 1 :=
  ⟨⟨_, rfl⟩, ⟨_, rfl⟩, ⟨_, rfl⟩, ⟨_, rfl⟩, ⟨_, rfl⟩, ⟨_, rfl⟩, ⟨_, rfl⟩, by decide, by decide, by decide, by decide,
    by decide, by decide, ⟨_, rfl⟩, by decide, by decide, by decide⟩

/-- Two sessions own slots 0 and 1; each has a capture pending, or neither has and both watchdogs are due. -/
def two : State :=
  setTime 40000 (setSession 1 { session0 with channel := 1 } (setOwner 1 (some 1) opened))

/-- ReferenceServiceOrder (with `hyps_hostIdle`): two captures pending, the lower first; none pending and two expiries;
nothing due and a command waiting at HOST, at ARB alone, at the stimulus stream alone, an illegal word; nothing to do. -/
theorem hyps_referenceOrder :
    Running two ∧ two.agenda = [] ∧ two.cfg.irqOrder = [0, 1, 2, 3, 4, 5, 6, 7] ∧
    pendingSlot (setCollab (capture 1 0 5 7 (capture 0 0 5 7 two.collab)) two) 0 = true ∧
    pendingSlot (setCollab (capture 1 0 5 7 two.collab) two) 1 = true ∧
    pendingSlot (setCollab (capture 1 0 5 7 two.collab) two) 0 = false ∧
    (∀ i, pendingSlot two i = false) ∧ expiryEnabled 0 two = true ∧ expiryEnabled 1 two = true ∧
    (∀ sid, expiryEnabled sid opened = false) ∧ (∀ i, pendingSlot opened i = false) ∧
    decode ((setRx .host [0x30000000] opened).rxAt .host) = .command (.getdir 0) [] ∧
    decode ((setRx .arb [0x83000000] opened).rxAt .arb) = .command (.alloc 3) [] ∧
    (∀ q ∈ [Port.host], commandReady q (setRx .arb [0x83000000] opened) = false) ∧
    decode ((setRx .stimulus [0xD0000000] opened).rxAt .stimulus) = .command (.evWdexp 0) [] ∧
    (∀ q ∈ [Port.host, .arb], commandReady q (setRx .stimulus [0xD0000000] opened) = false) ∧
    decode ((setRx .host [0] opened).rxAt .host) = .illegal .reservedOpcode [] ∧
    commandReady .host opened = false ∧ commandReady .arb opened = false ∧ commandReady .stimulus opened = false := by
  decide

/-- WrongPortRefused. -/
theorem hyps_wrongPort :
    Running opened ∧ acceptedOn (.alloc 0) opened.port = false ∧ acceptedOn (.evTime 0) opened.port = false ∧
    acceptedOn (.init 0) stimulus.port = false ∧ acceptedOn (.resolve 0 0) stimulus.port = false := by decide

/-- SessionChecksInOrder: handle 9 of 9 units; handle 8, Absent. -/
theorem hyps_sessionChecks :
    hostOperation (.init 9) = some (9, [.uninitialized]) ∧ hostOperation (.init 8) = some (8, [.uninitialized]) ∧
    Running { opened with cfg := nine } ∧ opened.port = .host ∧ nine.nSess ≤ (9 : Sid).toNat ∧
    (8 : Sid).toNat < nine.nSess ∧ (({ opened with cfg := nine } : State).session 8).fsm ∉ [Fsm.uninitialized] := by
  decide

/-- ConstructResult: each clause, at the edge of the range of counts. -/
theorem hyps_construct :
    Running State.reset ∧ State.reset.port = .host ∧ nine.nSess ≤ (9 : Sid).toNat ∧
    (opened.session 0).fsm ≠ .absent ∧ (State.reset.session 15).fsm = .absent ∧
    (15 : Sid).toNat < State.reset.cfg.nSess ∧
    2 ^ 32 ≤ (68719477 : Word64).toNat * State.reset.cfg.clockRate / 2000000 ∧
    (68719476 : Word64).toNat * State.reset.cfg.clockRate / 2000000 < 2 ^ 32 := by decide

/-- LargestAcceptedTimeout. -/
theorem hyps_largestTimeout :
    HostReady 0 State.reset ∧ (State.reset.session 0).fsm = .absent ∧ State.reset.cfg.clockRate = 125000000 :=
  ⟨⟨by decide, by decide, by decide⟩, by decide, by decide⟩

/-- Which way `allocate` ends. -/
def allocatedWay : Allocated → Nat
  | .ok _ _ _ _ => 0
  | .fail _ => 1
  | .fatal _ => 2

/-- Slot 0 owned in the open system with the answers given, a session on the HOST port to be initialized. -/
def openHost (answers : List (Option Nat)) : State := setSession 1 constructed0 (setPort .host (openSystem answers))

/-- InitResult, AllocateClaimsOneFreeSlot, AllocateFailureWritesNothing: each way `allocate` ends, and each check. -/
theorem hyps_init :
    Running (openHost []) ∧ (openHost []).port = .host ∧ (1 : Sid).toNat < (openHost []).cfg.nSess ∧
    ((openHost []).session 1).fsm = .uninitialized ∧ ((openHost []).session 0).fsm ≠ .uninitialized ∧
    nine.nSess ≤ (9 : Sid).toNat ∧ allocatedWay (allocate 1 none (openHost [some 1])) = 0 ∧
    allocatedWay (allocate 1 none (openHost [none, none])) = 1 ∧
    allocatedWay (allocate 1 none (openHost [some 4])) = 2 ∧
    allocatedWay (allocate 0 none (setTime 100 onlyConstructed)) = 0 := by decide

/-- FailedInitChangesNothing: no room in either bank. -/
theorem hyps_failedInit :
    HostReady 15 (owning noneOwned false false fresh15) ∧
    ((owning noneOwned false false fresh15).session 15).fsm = .uninitialized ∧
    allocatedWay (allocate 15 none (owning noneOwned false false fresh15)) = 1 :=
  ⟨⟨by decide, by decide, by decide⟩, by decide, by decide⟩

/-- A state built by `owning` is in the closed system. -/
theorem closedInv_owning (owners : Vector (Option Sid) 8) (room0 room1 : Bool)
    (h : (∀ i, ((owning owners room0 room1 fresh15).chan i).reserved =
        ((owning owners room0 room1 fresh15).ownerAt i).isSome) ∧
      ∀ b, ((owning owners room0 room1 fresh15).bankEnv b).resident =
        bankInUse b (owning owners room0 room1 fresh15)) :
    ClosedInv (owning owners room0 room1 fresh15) := ⟨rfl, h.1, h.2⟩

/-- Slot 4 owned, the first of bank 1. -/
def slot4Owned : Vector (Option Sid) 8 := #v[none, none, none, none, some 4, none, none, none]

/-- ClosedAllocationPolicy, R114's bank: the argument, above the lower bank in use; no argument, and both banks in use; an
argument that names a bank not in use, with bank 0 in use and with bank 1 in use. -/
theorem hyps_prefers :
    Prefers (some 1) (owning sevenOwned true true fresh15) 1 ∧ Prefers none (owning sevenOwned true true fresh15) 0 ∧
    Prefers (some 1) (owning bank0Full true true fresh15) 0 ∧ Prefers (some 0) (owning slot4Owned true true fresh15) 1 ∧
    Prefers none (owning allOwned true true fresh15) 0 ∧ ClosedInv (owning slot4Owned true true fresh15) :=
  ⟨.inl (by decide), .inr ⟨nofun, .inl (by decide)⟩, .inr ⟨by decide, .inl (by decide)⟩,
    .inr ⟨by decide, .inr (by decide)⟩, .inr ⟨nofun, .inl (by decide)⟩, closedInv_owning _ _ _ (by decide)⟩

/-- ClosedAllocationPolicy, a preferred bank: with a free channel; full with the other bank in use and not full; both
full; full with the other bank not in use, with room and without. -/
theorem hyps_policy_preferred :
    ClosedInv (owning sevenOwned true true fresh15) ∧ freeChans 1 (owning sevenOwned true true fresh15) = [3] ∧
    freeChans 0 (owning sevenOwned true true fresh15) = [] ∧
    bankInUse 1 (owning sevenOwned true true fresh15) = true ∧
    ClosedInv (owning allOwned true true fresh15) ∧ freeChans 0 (owning allOwned true true fresh15) = [] ∧
    freeChans 1 (owning allOwned true true fresh15) = [] ∧
    ClosedInv (owning bank0Full true true fresh15) ∧ ClosedInv (owning bank0Full true false fresh15) ∧
    freeChans 0 (owning bank0Full true false fresh15) = [] ∧
    bankInUse 1 (owning bank0Full true false fresh15) = false :=
  ⟨closedInv_owning _ _ _ (by decide), by decide, by decide, by decide, closedInv_owning _ _ _ (by decide), by decide,
    by decide, closedInv_owning _ _ _ (by decide), closedInv_owning _ _ _ (by decide), by decide, by decide⟩

/-- ClosedAllocationPolicy, no preferred bank: room in the first, in the second only, in none. -/
theorem hyps_policy_none :
    ClosedInv (owning noneOwned true true fresh15) ∧ ClosedInv (owning noneOwned false true fresh15) ∧
    ClosedInv (owning noneOwned false false fresh15) ∧ bankInUse 0 (owning noneOwned false true fresh15) = false ∧
    bankInUse 1 (owning noneOwned false true fresh15) = false :=
  ⟨closedInv_owning _ _ _ (by decide), closedInv_owning _ _ _ (by decide), closedInv_owning _ _ _ (by decide),
    by decide, by decide⟩

/-- SlotsAreGivenInOrder: no slot owned, four, and seven. -/
theorem hyps_slotsInOrder :
    HostReady 15 (owning bank0Full true true fresh15) ∧
    ((owning bank0Full true true fresh15).session 15).fsm = .uninitialized ∧
    (∀ b, ((owning bank0Full true true fresh15).bankEnv b).room = true) ∧
    (∀ i : Slot, ((owning noneOwned true true fresh15).ownerAt i).isSome = decide (i < 0)) ∧
    (∀ i : Slot, ((owning bank0Full true true fresh15).ownerAt i).isSome = decide (i < 4)) ∧
    (∀ i : Slot, ((owning sevenOwned true true fresh15).ownerAt i).isSome = decide (i < 7)) :=
  ⟨⟨by decide, by decide, by decide⟩, by decide, by decide, by decide, by decide, by decide⟩

/-- NinthInitIsExhausted. -/
theorem hyps_ninthInit :
    ClosedInv (owning allOwned true true fresh15) ∧ HostReady 15 (owning allOwned true true fresh15) ∧
    ((owning allOwned true true fresh15).session 15).fsm = .uninitialized ∧
    ∀ i : Slot, ((owning allOwned true true fresh15).ownerAt i).isSome = true :=
  ⟨closedInv_owning _ _ _ (by decide), ⟨by decide, by decide, by decide⟩, by decide, by decide⟩

/-- BadReservationIsFatal: 4, the first answer out of range, and 0, an owned channel, whichever bank is asked; `allocate`
fatal for a session on the HOST port and on the ARB port; a preferred bank, the other one fresh with room or in use; no
preferred bank, with room in both and in the second only. -/
theorem hyps_badReservation :
    reserveAnswer 0 (openSystem [some 4]) = some 4 ∧ reserveAnswer 1 (openSystem [some 0]) = some 0 ∧
    badAnswer 0 0 (openSystem [some 0]) ∧ HostReady 1 (openHost [some 4]) ∧
    allocatedWay (allocate 1 none (openHost [some 4])) = 2 ∧ ((openHost [some 4]).session 1).fsm = .uninitialized ∧
    allocatedWay (allocate 6 (some 0) (openSystem [some 0])) = 2 ∧ Running (openSystem [some 0]) ∧
    (openSystem [some 0]).port = .arb ∧ (openSystem [some 0]).cfg.collabClosed = false ∧
    preferred none (openSystem [some 0]) = some 0 ∧ bankInUse 1 (openSystem [none, some 4]) = false ∧
    ((openSystem [none, some 4]).bankEnv 1).room = true ∧
    bankInUse 1 (setOwner 4 (some 2) (openSystem [none, some 0])) = true ∧
    badAnswer 1 0 (setOwner 4 (some 2) (openSystem [none, some 0])) :=
  ⟨by decide, by decide, .inr (by decide), ⟨by decide, by decide, by decide⟩, by decide, by decide, by decide, by decide,
    by decide, by decide, by decide, by decide, by decide, by decide, .inr (by decide)⟩

/-- No slot owned in the open system, with the answers and the room given. -/
def openFresh (answers : List (Option Nat)) (room0 : Bool) : State :=
  { State.reset with
    cfg := { Config.reference with collabClosed := false }
    collab := program 0 room0 27 { Collab.reset with answers := answers } }

/-- BadReservationIsFatal, no preferred bank. -/
theorem hyps_badReservation_none :
    preferred none (openFresh [some 4] true) = none ∧ ((openFresh [some 4] true).bankEnv 0).room = true ∧
    preferred (some 1) (openFresh [some 4] false) = none ∧ ((openFresh [some 4] false).bankEnv 0).room = false ∧
    ((openFresh [some 4] false).bankEnv 1).room = true ∧ badAnswer 1 4 (openFresh [none, some 4] true) :=
  ⟨by decide, by decide, by decide, by decide, by decide, .inl (by decide)⟩

/-- AllocCommandResult: each check, and each way `allocate` ends. -/
theorem hyps_allocCommand :
    Running (openSystem []) ∧ opened.port = .host ∧ (openSystem []).port = .arb ∧ nine.nSess ≤ (9 : Sid).toNat ∧
    (6 : Sid).toNat < (openSystem []).cfg.nSess ∧ allocatedWay (allocate 6 none (openSystem [some 3])) = 0 ∧
    allocatedWay (allocate 6 (some 0) (openSystem [none, none])) = 1 ∧
    allocatedWay (allocate 6 none (openSystem [some 0])) = 2 := by decide

/-- ResolveAnswersOwner, BankuseAnswersInUse, ProgoffAnswersOffset: each clause. -/
theorem hyps_queries :
    Running opened ∧ opened.port = .host ∧ (openSystem []).port = .arb ∧ opened.ownerAt (slot 0 0) = some 0 ∧
    opened.ownerAt (slot 0 1) = none ∧ (∀ c, opened.ownerAt (slot 1 c) = none) := by decide

/-- GetdirAnswersDirection, GetperAnswersPeriod, GetbankAnswersBank: each clause. -/
theorem hyps_accessors :
    Running opened ∧ opened.port = .host ∧ nine.nSess ≤ (9 : Sid).toNat ∧ (8 : Sid).toNat < nine.nSess ∧
    (opened.session 1).fsm = .absent ∧ (opened.session 0).fsm = .initialized ∧
    (onlyConstructed.session 0).fsm = .uninitialized ∧ (0 : Sid).toNat < opened.cfg.nSess := by decide

/-- CaptureResult and CountAboveMaxIsFatal: a count of `max_counter`, one more, and a queue with older words. -/
theorem hyps_capture :
    Running stimulus ∧ stimulus.port = .stimulus ∧ stimulus.ownerAt (slot 0 0) = some 0 ∧
    (stimulus.session 0).bank = 0 ∧ (stimulus.session 0).channel = 0 ∧
    (stimulus.bankEnv 0).lineEn.getLsbD (0 : Chan).toNat = true ∧
    (stimulus.chan (slot 0 0)).fifo ++ [1, 2187500] = [1, 2187500] ∧
    (2187500 : Word) ≤ (stimulus.session 0).maxCounter ∧ (stimulus.session 0).maxCounter < (2187501 : Word) ∧
    ((setCollab (capture 0 1 5 90 stimulus.collab) stimulus).chan (slot 0 0)).fifo ++ [0, 0] = 1 :: 5 :: [0, 0] := by
  decide

/-- CaptureResult, a flagged channel: taken by the demultiplexer, and first in the order of an idle block. -/
theorem hyps_capture_flagged :
    HostIdle (setCollab (capture 0 1 2187500 90 opened.collab) opened) ∧
    ((setCollab (capture 0 1 2187500 90 opened.collab) opened).chan (slot 0 0)).irqFlag = true ∧
    ((setCollab (capture 0 1 2187500 90 opened.collab) opened).chan (slot 0 0)).fifo = [1, 2187500] ∧
    opened.agenda = [] ∧
    opened.cfg.irqOrder.find? (pendingSlot (setCollab (capture 0 1 2187500 90 opened.collab) opened)) =
      some (slot 0 0) :=
  ⟨.inl (by decide), by decide, by decide, by decide, by decide⟩

/-- CaptureIsDeterminedByItsWords: two sessions with different periods, directions, times. -/
theorem hyps_captureDetermined :
    two.cfg = opened.cfg ∧ (two.session 1).maxCounter = (opened.session 0).maxCounter ∧
    ((setCollab (capture 1 3 5 7 two.collab) two).chan (slot (two.session 1).bank (two.session 1).channel)).fifo =
      [3, 5] ∧
    ((setCollab (capture 0 1 5 7 opened.collab) opened).chan
      (slot (opened.session 0).bank (opened.session 0).channel)).fifo = [1, 5] ∧
    (3 : Word).getLsbD 0 = (1 : Word).getLsbD 0 ∧ (5 : Word) ≤ (two.session 1).maxCounter := by decide

/-- Session 0's channel with its flag raised and the words `ws` to read. -/
def flagged (ws : List Word) : State :=
  setCollab (setChan 0 { opened.chan 0 with fifo := ws, irqFlag := true } opened.collab) opened

/-- ReadWithNothingToReadIsFatal: no word, one word; taken by the demultiplexer, and first in the order of an idle
block. CountAboveMaxIsFatal: a flagged channel with a count one too large. -/
theorem hyps_readNothing :
    HostIdle (next (.serve 0 0) (flagged [])) ∧ HostIdle (flagged [1]) ∧ HostIdle (flagged [1, 2187501]) ∧
    Running (next (.serve 0 0) (flagged [])) ∧ pending 0 0 (flagged []) = true ∧ pending 0 0 (flagged [1]) = true ∧
    (flagged []).ownerAt (slot 0 0) = some 0 ∧ ((flagged []).session 0).bank = 0 ∧
    ((flagged []).session 0).channel = 0 ∧ ((flagged []).chan (slot 0 0)).fifo = [] ∧
    ((flagged [1]).chan (slot 0 0)).fifo = [1] ∧ (flagged [1]).agenda = [] ∧
    (flagged [1]).cfg.irqOrder.find? (pendingSlot (flagged [1])) = some (slot 0 0) ∧
    ((flagged [1, 2187501]).chan (slot 0 0)).fifo = [1, 2187501] ∧
    ((flagged [1, 2187501]).chan (slot 0 0)).irqFlag = true ∧
    ((flagged [1, 2187501]).session 0).maxCounter < 2187501 ∧
    (flagged []).cfg.irqOrder.find? (pendingSlot (flagged [1, 2187501])) = some (slot 0 0) :=
  ⟨.inl (by decide), .inl (by decide), .inl (by decide), by decide⟩

/-- A flag on channel 1 of bank 0, which no session owns, its line enabled. -/
def unowned : State := setCollab (capture 1 0 5 100 opened.collab) opened

/-- UnownedCaptureIsFatal: as a stimulus word, taken by the demultiplexer, and first in the order of an idle block.
DisabledLineIsNotServed. -/
theorem hyps_unowned :
    HostIdle unowned ∧ HostIdle (next (.serve 0 1) unowned) ∧ Running unowned ∧ unowned.ownerAt (slot 0 1) = none ∧
    (unowned.bankEnv 0).lineEn.getLsbD (1 : Chan).toNat = true ∧ (unowned.chan (slot 0 1)).irqFlag = true ∧
    unowned.agenda = [] ∧ unowned.cfg.irqOrder.find? (pendingSlot unowned) = some (slot 0 1) ∧
    stimulus.ownerAt (slot 0 1) = none ∧ (stimulus.bankEnv 0).lineEn.getLsbD (1 : Chan).toNat = true ∧
    Running stimulus ∧ stimulus.port = .stimulus ∧ (next (.capture 1 0 0 5) opened).agenda = [.capture 1 0 0 5] ∧
    (stimulus.bankEnv 1).lineEn.getLsbD (0 : Chan).toNat = false :=
  ⟨.inl (by decide), .inl (by decide), by decide⟩

/-- ExpiryResult and ExpiryNotEnabledIsRejected: due with no capture pending; due with one pending since before; idle;
no such unit; one microsecond early; a capture at the very instant. -/
theorem hyps_expiry :
    Running stimulus ∧ stimulus.port = .stimulus ∧ (0 : Sid).toNat < stimulus.cfg.nSess ∧
    (stimulus.session 0).wd = .pending 35100 ∧ (35100 : Word64) ≤ (setTime 35100 stimulus).timeUs ∧
    pending 0 0 stimulus = false ∧
    pending 0 0 (setCollab (capture 0 0 5 35099 stimulus.collab) stimulus) = true ∧
    ((setCollab (capture 0 0 5 35099 stimulus.collab) stimulus).chan (slot 0 0)).flagTime ≠ 35100 ∧
    (stimulus.session 1).wd = .idle ∧ nine.nSess ≤ (9 : Sid).toNat ∧ (setTime 35099 stimulus).timeUs < 35100 ∧
    pending 0 0 (setCollab (capture 0 0 5 35100 stimulus.collab) stimulus) = true ∧
    ((setCollab (capture 0 0 5 35100 stimulus.collab) stimulus).chan (slot 0 0)).flagTime = 35100 := by decide

/-- CaptureCancelsTheExpiry. -/
theorem hyps_cancels :
    (∃ t, exec (.evCapture 0 0 0 2125000) stimulus = .next t) ∧ stimulus.port = .stimulus ∧
    stimulus.ownerAt (slot 0 0) = some 0 ∧ (stimulus.bankEnv 0).lineEn.getLsbD (0 : Chan).toNat = true ∧
    stimulus.timeUs.toNat + (stimulus.session 0).timeoutUs.toNat < 2 ^ 64 ∧
    (35099 : Word64).toNat < stimulus.timeUs.toNat + (stimulus.session 0).timeoutUs.toNat :=
  ⟨⟨_, rfl⟩, by decide, by decide, by decide, by decide, by decide⟩

/-- SameInstantCaptureGoesFirst. -/
theorem hyps_sameInstant :
    ((next (.capture 0 0 0 5) (setTime 35100 opened)).session 0).wd = .pending (setTime 35100 opened).timeUs ∧
    ((setTime 35100 opened).bankEnv ((setTime 35100 opened).session 0).bank).lineEn.getLsbD
      ((setTime 35100 opened).session 0).channel.toNat = true ∧
    (next (.capture 0 0 0 5) (setTime 35100 opened)).agenda = [.capture 0 0 0 5] := by decide

/-- TimeOnlyForwards: the same instant, and one microsecond back. -/
theorem hyps_time :
    Running stimulus ∧ stimulus.port = .stimulus ∧ stimulus.timeUs ≤ (100 : Word64) ∧ (99 : Word64) < stimulus.timeUs := by
  decide

/-- OnlyAllocationWritesTheTables and HostCannotWriteMeasurements. -/
theorem hyps_wholeMachine :
    (∃ t, exec (.getdir 0) opened = .next t) ∧ opened.port = .host ∧ (∃ t, exec (.init 0) onlyConstructed = .next t) ∧
    onlyConstructed.port = .host ∧ (opened.session 0).fsm = .initialized ∧
    (∃ t, exec (.evCapture 0 0 0 5) stimulus = .next t) :=
  ⟨⟨_, rfl⟩, by decide, ⟨_, rfl⟩, by decide, by decide, ⟨_, rfl⟩⟩

/-- BlockInvIsKept, InitializedOwnsExactlyOneSlot, AtMostEightInitialized, NoFatalFaultInContract. -/
theorem blockInv_opened : BlockInv opened where
  cfgWf := by decide
  ownerOf := by decide
  owned := by decide
  offsetUsed := by decide
  offsetOf := by decide
  quiet := by decide
  absent := by decide
  counter := by decide
  beyond := by decide
  lines := by decide
  arbIdle := by decide
  arbInternal := by decide

theorem hyps_initialized : (opened.session 0).fsm = .initialized ∧ (∃ t, step opened = .next t) := ⟨by decide, ⟨_, rfl⟩⟩

/-- ClosedInvIsKept. -/
theorem closedInv_opened : ClosedInv opened where
  closed := by decide
  reservedOwned := by decide
  residentInUse := by decide

/-- ProgramIsLoadedOncePerBank. -/
theorem loadInv_opened : LoadInv opened := by
  unfold LoadInv
  decide

theorem contractInv_opened : ContractInv opened where
  ownedChannel i sid h := by
    have hi : i = 0 ∧ sid = 0 := by revert i sid; decide
    obtain ⟨rfl, rfl⟩ := hi
    exact .inl (by decide)
  freeChannel := by decide

/-- NoFatalFaultInContract: a capture in contract, scheduled and as a stimulus word. -/
theorem hyps_noFatal :
    Running opened ∧ BlockInv (next (.capture 0 0 1 2187500) opened) ∧ ClosedInv (next (.capture 0 0 1 2187500) opened) ∧
    ContractInv (next (.capture 0 0 1 2187500) opened) ∧ nextInContract (next (.capture 0 0 1 2187500) opened) = true ∧
    (∃ t, step (next (.capture 0 0 1 2187500) opened) = .next t) ∧
    nextInContract (next (.port .stimulus [0xC0000000, 1, 2187500]) opened) = true :=
  ⟨by decide,
    ⟨by decide, by decide, by decide, by decide, by decide, by decide, by decide, by decide, by decide, by decide,
      by decide, by decide⟩,
    ⟨by decide, by decide, by decide⟩, ⟨contractInv_opened.ownedChannel, contractInv_opened.freeChannel⟩, by decide,
    ⟨_, rfl⟩, by decide⟩

/-- F64IsNearest: a value half-way between two others, and its neighbour. -/
theorem hyps_f64 :
    f64 (2 ^ 53 + 1) 1 = 0x4340000000000000 ∧ (0x4340000000000000 : Word64) < 0x7FF0000000000000 ∧
    distance (2 ^ 53 + 1) 1 0x4340000000000000 = distance (2 ^ 53 + 1) 1 0x4340000000000001 := by
  decide +kernel

/-- PeriodIsMonotone, PeriodIsZeroOrNormal, PeriodCornerValues: the largest even and an odd timeout. -/
theorem hyps_period :
    0 < Config.reference.clockRate ∧ Config.reference.clockRate = 125000000 ∧ Config.reference.usPerS = 1000000 ∧
    (2187499 : Word) ≤ 2187500 ∧ (2187500 : Word).toNat = maxCounterOf Config.reference 35000 ∧
    (62 : Word).toNat = maxCounterOf Config.reference 1 ∧ 0 < (62 : Word) := by decide

end Sys2Proof.Tests
end

section
/-! No step changes the configuration (spec 10_state.md R36; notes/assumptions/1.md). -/

namespace Sys2Proof.Machine

/-- No instruction writes the configuration: each of its effects is a chain of operations that keep it. -/
theorem Effect.cfg {s t : State} (h : Effect s t) : t.cfg = s.cfg := by
  cases h with
  | refused => simp
  | answered => simp
  | constructed => simp
  | allocFailed s0 ws asked => simp [asked.cfg]
  | arbitration s0 b n asked => simp [reserveAsked_keeps, asked.cfg]
  | allocated s0 b c sid ws _ asked => simp [claimed_keeps, asked.cfg]
  | initialized s0 b c sid _ _ asked => simp [initSlot_keeps, claimed_keeps, asked.cfg]
  | captured => simp
  | capturedServed b c d r sid => simp [(onCapture_served sid _).cfg]
  | capturedUnresolved => simp
  | expired sid => exact (onExpiry_served sid 0 s).cfg
  | timed => simp

theorem StepEffect.cfg {s t : State} (h : StepEffect s t) : t.cfg = s.cfg := by
  cases h with
  | waited _ prepared => exact prepared.cfg
  | ran u _ prepared _ _ _ effect => exact effect.cfg.trans prepared.cfg
  | expired sid => exact (onExpiry_served sid 0 s).cfg
  | served u _ _ sid prepared => exact (onCapture_served sid u).cfg.trans prepared.cfg
  | unresolved u _ _ prepared => simp [prepared.cfg]
  | environment u k prepared => simp [prepared.cfg]
  | reset u prepared => simp [prepared.cfg]

/-- Settles O10: `step_effect` says what a step can do, and none of it writes the configuration. -/
theorem stepKeepsConfiguration : Obligations.StepKeepsConfiguration :=
  fun _ _ h => (step_effect h).cfg

end Sys2Proof.Machine
end

section
/-! `f64` rounds to the nearest binary64 value, ties to even (spec 00_scope.md R13). Values are counted in units of
2^-1074, so that every finite one is a natural number `m * 2 ^ e`. -/

namespace Sys2Proof.Machine

/-! ## Rounding a quotient -/

/-- The rounded quotient is off by at most half a unit, and by exactly half only where it is even. -/
theorem roundHalfEven_error (n : Nat) {d : Nat} (hd : 0 < d) :
    2 * (((roundHalfEven n d * d : Nat) : Int) - n).natAbs ≤ d ∧
      (2 * (((roundHalfEven n d * d : Nat) : Int) - n).natAbs = d → roundHalfEven n d % 2 = 0) := by
  have hn : n / d * d + n % d = n := Nat.div_add_mod' n d
  have hr : n % d < d := Nat.mod_lt n hd
  unfold roundHalfEven
  dsimp only
  split
  · rw [Nat.add_mul, Nat.one_mul]
    omega
  · omega

/-- No multiple of `d` is nearer to `n` than the rounded quotient's, and one as near only where that is even. -/
theorem roundHalfEven_nearest (n : Nat) {d : Nat} (hd : 0 < d) (k : Nat) :
    (((roundHalfEven n d * d : Nat) : Int) - n).natAbs ≤ (((k * d : Nat) : Int) - n).natAbs ∧
      ((((roundHalfEven n d * d : Nat) : Int) - n).natAbs = (((k * d : Nat) : Int) - n).natAbs →
        k = roundHalfEven n d ∨ roundHalfEven n d % 2 = 0) := by
  obtain ⟨hle, heven⟩ := roundHalfEven_error n hd
  have hgap : ∀ {a b : Nat}, a < b → a * d + d ≤ b * d := fun {a b} h =>
    Nat.succ_mul a d ▸ Nat.mul_le_mul_right d h
  rcases Nat.lt_trichotomy k (roundHalfEven n d) with hk | rfl | hk
  · have := hgap hk
    omega
  · exact ⟨Nat.le_refl _, fun _ => .inl rfl⟩
  · have := hgap hk
    omega

theorem roundHalfEven_le_of_lt {n d k : Nat} (h : n < k * d) : roundHalfEven n d ≤ k := by
  have hq : n / d < k := Nat.div_lt_of_lt_mul (by rwa [Nat.mul_comm] at h)
  unfold roundHalfEven
  dsimp only
  split <;> omega

theorem le_roundHalfEven {n d k : Nat} (hd : 0 < d) (h : k * d ≤ n) : k ≤ roundHalfEven n d := by
  have hq : k ≤ n / d := (Nat.le_div_iff_mul_le hd).mpr h
  unfold roundHalfEven
  dsimp only
  split <;> omega

/-- Only the ratio counts. -/
theorem roundHalfEven_mul_right (n d : Nat) {c : Nat} (hc : 0 < c) :
    roundHalfEven (n * c) (d * c) = roundHalfEven n d := by
  have hlt : d * c < 2 * (n % d * c) ↔ d < 2 * (n % d) := by
    rw [← Nat.mul_assoc, Nat.mul_lt_mul_right hc]
  have heq : 2 * (n % d * c) = d * c ↔ 2 * (n % d) = d := by
    rw [← Nat.mul_assoc, Nat.mul_left_inj (Nat.ne_of_gt hc)]
  simp only [roundHalfEven, Nat.mul_div_mul_right _ _ hc, Nat.mul_mod_mul_right, hlt, heq]

/-! ## The values of the images -/

/-- The value of an image built from an exponent and a significand, as `f64Image` builds it: the significand may have
carried. -/
theorem scaledValue_of_toNat {x : Word64} {e m : Nat} (hx : x.toNat = e * 2 ^ 52 + m) (hlt : x.toNat < 2 ^ 63)
    (hm : m ≤ 2 ^ 53) (he : e = 0 ∨ 2 ^ 52 ≤ m) : scaledValue x = m * 2 ^ e := by
  have hexp : (x.extractLsb' 52 11).toNat = x.toNat / 2 ^ 52 := by
    rw [BitVec.extractLsb'_toNat, Nat.shiftRight_eq_div_pow, Nat.mod_eq_of_lt (by omega)]
  have hfrac : (x.extractLsb' 0 52).toNat = x.toNat % 2 ^ 52 := by
    rw [BitVec.extractLsb'_toNat, Nat.shiftRight_zero]
  unfold scaledValue
  dsimp only
  rw [hexp, hfrac]
  obtain hsmall | hnormal | hcarry : m < 2 ^ 52 ∨ (2 ^ 52 ≤ m ∧ m < 2 ^ 53) ∨ m = 2 ^ 53 := by omega
  · obtain rfl : e = 0 := by omega
    rw [if_pos (by omega)]
    omega
  · rw [if_neg (by omega), show x.toNat / 2 ^ 52 - 1 = e by omega,
      show 2 ^ 52 + x.toNat % 2 ^ 52 = m by omega]
  · rw [if_neg (by omega), show x.toNat / 2 ^ 52 - 1 = e + 1 by omega,
      show 2 ^ 52 + x.toNat % 2 ^ 52 = 2 ^ 52 by omega, hcarry, Nat.pow_succ]
    omega

@[simp] theorem scaledValue_zero : scaledValue 0 = 0 := by decide

/-- Every non-negative image is an exponent and a significand of at most 53 bits. -/
theorem exists_significand {x : Word64} (hx : x.toNat < 2 ^ 63) :
    ∃ e m, m < 2 ^ 53 ∧ (e = 0 ∨ 2 ^ 52 ≤ m) ∧ x.toNat = e * 2 ^ 52 + m ∧ scaledValue x = m * 2 ^ e := by
  have hm : x.toNat - (x.toNat / 2 ^ 52 - 1) * 2 ^ 52 < 2 ^ 53 := by omega
  have he : x.toNat / 2 ^ 52 - 1 = 0 ∨ 2 ^ 52 ≤ x.toNat - (x.toNat / 2 ^ 52 - 1) * 2 ^ 52 := by omega
  have hsum : x.toNat = (x.toNat / 2 ^ 52 - 1) * 2 ^ 52 + (x.toNat - (x.toNat / 2 ^ 52 - 1) * 2 ^ 52) := by omega
  exact ⟨_, _, hm, he, hsum, scaledValue_of_toNat hsum hx (Nat.le_of_lt hm) he⟩

/-- A value below the next binade: `m < 2^53` in units of `2^e` is less than any normal value of a higher exponent. -/
theorem significand_mul_lt {m m' e e' : Nat} (hm : m < 2 ^ 53) (hm' : 2 ^ 52 ≤ m') (he : e < e') :
    m * 2 ^ e < m' * 2 ^ e' :=
  calc m * 2 ^ e < 2 ^ 53 * 2 ^ e := Nat.mul_lt_mul_of_pos_right hm (Nat.two_pow_pos e)
    _ = 2 ^ 52 * 2 ^ (e + 1) := by
      rw [Nat.pow_succ]
      omega
    _ ≤ m' * 2 ^ e' := Nat.mul_le_mul hm' (Nat.pow_le_pow_right Nat.two_pos he)

/-- Non-negative images are ordered as their values (R183). -/
theorem scaledValue_lt {x y : Word64} (hy : y.toNat < 2 ^ 63) (h : x < y) : scaledValue x < scaledValue y := by
  have hxy : x.toNat < y.toNat := BitVec.lt_def.mp h
  obtain ⟨e, m, hm, he, hx, hvx⟩ := exists_significand (Nat.lt_trans hxy hy)
  obtain ⟨e', m', hm', he', hy, hvy⟩ := exists_significand hy
  rw [hvx, hvy]
  rcases Nat.lt_trichotomy e e' with hlt | rfl | hgt
  · exact significand_mul_lt hm (by omega) hlt
  · exact Nat.mul_lt_mul_of_pos_right (by omega) (Nat.two_pow_pos e)
  · omega

theorem scaledValue_injective {x y : Word64} (hx : x.toNat < 2 ^ 63) (hy : y.toNat < 2 ^ 63)
    (h : scaledValue x = scaledValue y) : x = y := by
  rcases Nat.lt_trichotomy x.toNat y.toNat with hlt | heq | hgt
  · exact absurd h (Nat.ne_of_lt (scaledValue_lt hy hlt))
  · exact BitVec.eq_of_toNat_eq heq
  · exact absurd h (Nat.ne_of_gt (scaledValue_lt hx hgt))

/-- A non-negative value is a whole number of units `2 ^ e`, or it lies below the numbers that have that unit. -/
theorem scaledValue_multiple_or_lt {x : Word64} (hx : x.toNat < 2 ^ 63) (e : Nat) :
    (∃ k, scaledValue x = k * 2 ^ e) ∨ (e ≠ 0 ∧ scaledValue x < 2 ^ 52 * 2 ^ e) := by
  obtain ⟨e', m, hm, -, -, hv⟩ := exists_significand hx
  rw [hv]
  rcases Nat.lt_or_ge e' e with hlt | hge
  · exact .inr ⟨by omega, significand_mul_lt hm (Nat.le_refl _) hlt⟩
  · refine .inl ⟨m * 2 ^ (e' - e), ?_⟩
    rw [Nat.mul_assoc, ← Nat.pow_add, Nat.sub_add_cancel hge]

/-! ## The exponent and the significand of a quotient -/

/-- The quotient has at most 53 bits in units of its exponent. -/
theorem f64Exponent_upper (num : Nat) {den : Nat} (hden : 0 < den) :
    num * 2 ^ 1074 < 2 ^ 53 * (den * 2 ^ f64Exponent num den) := by
  generalize hS : 1074 = S
  have hb : 2 ^ den.log2 ≤ den := Nat.log2_self_le (Nat.ne_of_gt hden)
  have ha : num < 2 ^ (num.log2 + 1) := Nat.lt_log2_self
  unfold f64Exponent
  generalize num.log2 = a at *
  generalize den.log2 = b at *
  dsimp only
  split
  · calc num * 2 ^ S < 2 ^ (a + 1) * 2 ^ S := Nat.mul_lt_mul_of_pos_right ha (Nat.two_pow_pos _)
      _ = 2 ^ (a + 1 + S) := by rw [← Nat.pow_add]
      _ ≤ 2 ^ (53 + (b + (a + 1022 - b))) := Nat.pow_le_pow_right Nat.two_pos (by omega)
      _ = 2 ^ 53 * (2 ^ b * 2 ^ (a + 1022 - b)) := by rw [Nat.pow_add, Nat.pow_add]
      _ ≤ 2 ^ 53 * (den * 2 ^ (a + 1022 - b)) := Nat.mul_le_mul_left _ (Nat.mul_le_mul_right _ hb)
  · rename_i hlt
    refine Nat.lt_of_mul_lt_mul_right (a := 2 ^ b) ?_
    calc num * 2 ^ S * 2 ^ b = num * 2 ^ b * 2 ^ S := Nat.mul_right_comm _ _ _
      _ < den * 2 ^ a * 2 ^ S := Nat.mul_lt_mul_of_pos_right (by omega) (Nat.two_pow_pos _)
      _ = den * 2 ^ (a + S) := by rw [Nat.mul_assoc, ← Nat.pow_add]
      _ ≤ den * 2 ^ (53 + (a + 1022 - b - 1) + b) :=
        Nat.mul_le_mul_left _ (Nat.pow_le_pow_right Nat.two_pos (by omega))
      _ = 2 ^ 53 * (den * 2 ^ (a + 1022 - b - 1)) * 2 ^ b := by
        rw [Nat.pow_add, Nat.pow_add, Nat.mul_left_comm (2 ^ 53), Nat.mul_assoc]
        rw [Nat.mul_assoc, Nat.mul_assoc]

/-- In the normal range the quotient has at least 53 bits in units of its exponent. -/
theorem f64Exponent_lower {num den : Nat} (hnum : num ≠ 0) (he : f64Exponent num den ≠ 0) :
    2 ^ 52 * (den * 2 ^ f64Exponent num den) ≤ num * 2 ^ 1074 := by
  generalize hS : 1074 = S
  have hb : den < 2 ^ (den.log2 + 1) := Nat.lt_log2_self
  have ha : 2 ^ num.log2 ≤ num := Nat.log2_self_le hnum
  unfold f64Exponent at he ⊢
  generalize num.log2 = a at *
  generalize den.log2 = b at *
  dsimp only at he ⊢
  split at he
  · rename_i hle
    rw [if_pos hle]
    refine Nat.le_of_mul_le_mul_right ?_ (Nat.two_pow_pos b)
    calc 2 ^ 52 * (den * 2 ^ (a + 1022 - b)) * 2 ^ b
        = den * 2 ^ (52 + (a + 1022 - b) + b) := by
          rw [Nat.pow_add, Nat.pow_add, Nat.mul_left_comm (2 ^ 52), Nat.mul_assoc]
      _ = den * 2 ^ (a + S) := by rw [show 52 + (a + 1022 - b) + b = a + S by omega]
      _ = den * 2 ^ a * 2 ^ S := by rw [Nat.pow_add, Nat.mul_assoc]
      _ ≤ num * 2 ^ b * 2 ^ S := Nat.mul_le_mul_right _ hle
      _ = num * 2 ^ S * 2 ^ b := Nat.mul_right_comm _ _ _
  · rename_i hlt
    rw [if_neg hlt]
    calc 2 ^ 52 * (den * 2 ^ (a + 1022 - b - 1))
        ≤ 2 ^ 52 * (2 ^ (b + 1) * 2 ^ (a + 1022 - b - 1)) :=
          Nat.mul_le_mul_left _ (Nat.mul_le_mul_right _ (Nat.le_of_lt hb))
      _ = 2 ^ (52 + (b + 1 + (a + 1022 - b - 1))) := by rw [← Nat.pow_add, ← Nat.pow_add]
      _ = 2 ^ (a + S) := by rw [show 52 + (b + 1 + (a + 1022 - b - 1)) = a + S by omega]
      _ = 2 ^ a * 2 ^ S := by rw [Nat.pow_add]
      _ ≤ num * 2 ^ S := Nat.mul_le_mul_right _ ha

/-- The significand is the quotient rounded in units of the exponent. -/
theorem f64Significand_eq (num den e : Nat) :
    f64Significand num den e = roundHalfEven (num * 2 ^ 1074) (den * 2 ^ e) := by
  rw [f64Significand, ← roundHalfEven_mul_right _ _ (Nat.two_pow_pos (min e 1074))]
  rw [Nat.mul_assoc, Nat.mul_assoc, ← Nat.pow_add, ← Nat.pow_add]
  congr 3 <;> omega

/-- The significand of `f64(num / den)`. -/
def f64Rounded (num den : Nat) : Nat := f64Significand num den (f64Exponent num den)

/-- The significand has at most 53 bits or has carried to `2^53`, and in the normal range it is at least `2^52`. -/
theorem f64Rounded_range {num den : Nat} (hnum : num ≠ 0) (hden : 0 < den) :
    f64Rounded num den ≤ 2 ^ 53 ∧ (f64Exponent num den = 0 ∨ 2 ^ 52 ≤ f64Rounded num den) := by
  rw [f64Rounded, f64Significand_eq]
  refine ⟨roundHalfEven_le_of_lt (f64Exponent_upper num hden), ?_⟩
  by_cases he : f64Exponent num den = 0
  · exact .inl he
  · exact .inr (le_roundHalfEven (Nat.mul_pos hden (Nat.two_pow_pos _)) (f64Exponent_lower hnum he))

/-- A finite `f64(num / den)` is the image of its exponent and significand (R13). -/
theorem f64_toNat {num den : Nat} (hnum : num ≠ 0) (hfin : f64 num den < 0x7FF0000000000000) :
    (f64 num den).toNat = f64Exponent num den * 2 ^ 52 + f64Rounded num den := by
  have himage : f64Image num den =
    min (f64Exponent num den * 2 ^ 52 + f64Rounded num den) 0x7FF0000000000000 := rfl
  have hlt : (f64 num den).toNat < 0x7FF0000000000000 := BitVec.lt_def.mp hfin
  rw [f64, if_neg hnum, BitVec.toNat_ofNat] at hlt ⊢
  omega

theorem scaledValue_f64 {num den : Nat} (hnum : num ≠ 0) (hden : 0 < den)
    (hfin : f64 num den < 0x7FF0000000000000) :
    scaledValue (f64 num den) = f64Rounded num den * 2 ^ f64Exponent num den := by
  obtain ⟨hle, hge⟩ := f64Rounded_range hnum hden
  exact scaledValue_of_toNat (f64_toNat hnum hfin) (Nat.lt_trans (BitVec.lt_def.mp hfin) (by decide)) hle hge

/-- The image is even where the significand is: the exponent stands above bit 0. -/
theorem f64_even {num den : Nat} (hnum : num ≠ 0) (hfin : f64 num den < 0x7FF0000000000000)
    (heven : f64Rounded num den % 2 = 0) : (f64 num den).getLsbD 0 = false := by
  have := f64_toNat hnum hfin
  rw [BitVec.getLsbD, Nat.testBit_zero, decide_eq_false_iff_not]
  omega

@[simp] theorem f64_zero (den : Nat) : f64 0 den = 0 := rfl

/-! ## `f64` is the nearest -/

/-- The distance over the naturals: the value and the quotient, both scaled to units of `2 ^ -1074 / den`. -/
theorem distance_eq (num den : Nat) (x : Word64) :
    distance num den x = (((scaledValue x * den : Nat) : Int) - (num * 2 ^ 1074 : Nat)).natAbs := by
  simp only [distance, Int.natCast_mul, Int.natCast_pow, Int.cast_ofNat_Int]

/-- The distance of a whole number of units `2 ^ e`, in the terms of `roundHalfEven_nearest`. -/
theorem distance_of_scaledValue {num den k e : Nat} {x : Word64} (h : scaledValue x = k * 2 ^ e) :
    distance num den x = (((k * (den * 2 ^ e) : Nat) : Int) - (num * 2 ^ 1074 : Nat)).natAbs := by
  rw [distance_eq, h, Nat.mul_assoc, Nat.mul_comm (2 ^ e)]

/-- No whole number of units of the exponent is nearer to the quotient than `f64`, and one as near is `f64`'s own
significand or leaves that even. -/
theorem f64_nearest_multiple {num den : Nat} (hnum : num ≠ 0) (hden : 0 < den)
    (hfin : f64 num den < 0x7FF0000000000000) (k : Nat) :
    distance num den (f64 num den) ≤
        (((k * (den * 2 ^ f64Exponent num den) : Nat) : Int) - (num * 2 ^ 1074 : Nat)).natAbs ∧
      (distance num den (f64 num den) =
          (((k * (den * 2 ^ f64Exponent num den) : Nat) : Int) - (num * 2 ^ 1074 : Nat)).natAbs →
        k = f64Rounded num den ∨ f64Rounded num den % 2 = 0) := by
  rw [distance_of_scaledValue (scaledValue_f64 hnum hden hfin), f64Rounded, f64Significand_eq]
  exact roundHalfEven_nearest _ (Nat.mul_pos hden (Nat.two_pow_pos _)) k

/-- A value below all those with the unit of the quotient is farther from it than `f64`: the least of those lies
between. -/
theorem f64_nearer_than_lower_binade {num den : Nat} {x : Word64} (hnum : num ≠ 0) (hden : 0 < den)
    (hfin : f64 num den < 0x7FF0000000000000) (he : f64Exponent num den ≠ 0)
    (hx : scaledValue x < 2 ^ 52 * 2 ^ f64Exponent num den) :
    distance num den (f64 num den) < distance num den x := by
  have hlow : 2 ^ 52 * (den * 2 ^ f64Exponent num den) ≤ num * 2 ^ 1074 := f64Exponent_lower hnum he
  have hbelow : scaledValue x * den < 2 ^ 52 * (den * 2 ^ f64Exponent num den) :=
    calc scaledValue x * den < 2 ^ 52 * 2 ^ f64Exponent num den * den := Nat.mul_lt_mul_of_pos_right hx hden
      _ = 2 ^ 52 * (den * 2 ^ f64Exponent num den) := by rw [Nat.mul_assoc, Nat.mul_comm den]
  refine Nat.lt_of_le_of_lt (f64_nearest_multiple hnum hden hfin (2 ^ 52)).1 ?_
  rw [distance_eq]
  generalize num * 2 ^ 1074 = n at *
  omega

/-- The nearest value, and of two nearest ones the even one, for a quotient that is not zero. -/
theorem f64_nearest {num den : Nat} {x : Word64} (hnum : num ≠ 0) (hden : 0 < den)
    (hfin : f64 num den < 0x7FF0000000000000) (hx : x < 0x7FF0000000000000) :
    distance num den (f64 num den) ≤ distance num den x ∧
      (distance num den (f64 num den) = distance num den x → x ≠ f64 num den →
        (f64 num den).getLsbD 0 = false) := by
  have hx63 : x.toNat < 2 ^ 63 := Nat.lt_trans (BitVec.lt_def.mp hx) (by decide)
  have hf63 : (f64 num den).toNat < 2 ^ 63 := Nat.lt_trans (BitVec.lt_def.mp hfin) (by decide)
  obtain ⟨k, hk⟩ | ⟨he, hlt⟩ := scaledValue_multiple_or_lt hx63 (f64Exponent num den)
  · obtain ⟨hle, htie⟩ := f64_nearest_multiple hnum hden hfin k
    rw [distance_of_scaledValue hk]
    refine ⟨hle, fun heq hne => ?_⟩
    obtain rfl | heven := htie heq
    · exact absurd (scaledValue_injective hx63 hf63 (hk.trans (scaledValue_f64 hnum hden hfin).symm)) hne
    · exact f64_even hnum hfin heven
  · have hfar := f64_nearer_than_lower_binade hnum hden hfin he hlt
    exact ⟨Nat.le_of_lt hfar, fun heq => absurd heq (Nat.ne_of_lt hfar)⟩

/-- Settles O57: zero is its own image; any other quotient is rounded once, in units of its exponent. -/
theorem f64IsNearest : Obligations.F64IsNearest := by
  intro num den x hden hfin hx
  by_cases hnum : num = 0
  · rw [hnum, f64_zero]
    have hzero : distance 0 den 0 = 0 := by
      simp only [distance_eq, scaledValue_zero, Nat.zero_mul, Int.sub_self, Int.natAbs_zero]
    refine ⟨?_, fun _ _ => rfl⟩
    rw [hzero]
    exact Nat.zero_le _
  · exact f64_nearest hnum hden hfin hx

end Sys2Proof.Machine
end

section
/-! What a step that is no RESET writes of OWNER, OFFSET and the session units, said once (spec 10_state.md R20 to R31):
nothing, one session's measurements, one constructed session, or one claimed slot. -/

namespace Sys2Proof.Machine

/-! ## Steps that leave the tables alone -/

/-- `t` has the tables of `s`, every bank's four lines still enabled, and no words newly at the ARB port. -/
structure SameTables (s t : State) : Prop where
  cfg : t.cfg = s.cfg
  owner : t.owner = s.owner
  offset : t.offset = s.offset
  lines : ∀ b, (s.bankEnv b).lineEn = 0b1111 → (t.bankEnv b).lineEn = 0b1111
  quiet : ArbQuiet s → ArbQuiet t

theorem SameTables.trans {s t u : State} (h : SameTables s t) (h' : SameTables t u) : SameTables s u where
  cfg := h'.cfg.trans h.cfg
  owner := h'.owner.trans h.owner
  offset := h'.offset.trans h.offset
  lines b hb := h'.lines b (h.lines b hb)
  quiet hq := h'.quiet (h.quiet hq)

theorem SameTables.ownerAt {s t : State} (h : SameTables s t) (i : Slot) : t.ownerAt i = s.ownerAt i := by
  simp only [State.ownerAt, h.owner]

theorem SameTables.offsetAt {s t : State} (h : SameTables s t) (b : Bank) : t.offsetAt b = s.offsetAt b := by
  simp only [State.offsetAt, h.offset]

theorem SameTables.bankInUse {s t : State} (h : SameTables s t) (b : Bank) : bankInUse b t = bankInUse b s :=
  bankInUse_congr h.owner b

theorem sameTables_respond (ws : List Word) (s : State) : SameTables s (respond ws s) :=
  ⟨rfl, rfl, rfl, fun _ h => h, id⟩

theorem sameTables_refuse (code : RefuseCode) (s : State) : SameTables s (refuse code s) :=
  ⟨rfl, rfl, rfl, fun _ h => h, id⟩

theorem sameTables_raiseFatal (code : FatalCode) (s : State) : SameTables s (raiseFatal code s) :=
  ⟨rfl, rfl, rfl, fun _ h => h, id⟩

theorem sameTables_setTime (now : Word64) (s : State) : SameTables s (setTime now s) :=
  ⟨rfl, rfl, rfl, fun _ h => h, id⟩

theorem sameTables_setSession (sid : Sid) (u : Session) (s : State) : SameTables s (setSession sid u s) :=
  ⟨rfl, rfl, rfl, fun _ h => h, id⟩

theorem sameTables_setCollab {k : Collab} {s : State}
    (h : ∀ b, (s.bankEnv b).lineEn = 0b1111 → (k.bank b).lineEn = 0b1111) : SameTables s (setCollab k s) :=
  ⟨rfl, rfl, rfl, h, id⟩

theorem Prepared.sameTables {s u : State} (h : Prepared s u) (hq : ArbQuiet s → ArbQuiet u) : SameTables s u :=
  ⟨h.cfg, h.owner, h.offset, fun b hb => by rw [h.bankEnv, hb], hq⟩

theorem Asked.sameTables {s t : State} (h : Asked s t) : SameTables s t :=
  ⟨h.cfg, h.owner, h.offset, fun b hb => by rw [h.bankEnv, hb], fun hq => by rwa [ArbQuiet, h.rx, h.agenda]⟩

theorem Served.sameTables {sid : Sid} {i : Slot} {s t : State} (h : Served sid i s t) : SameTables s t :=
  ⟨h.cfg, h.owner, h.offset, fun b hb => by rw [h.bankEnv, hb], fun hq => by rwa [ArbQuiet, h.rx, h.agenda]⟩

theorem sameTables_reserveAsked (b : Bank) (s : State) : SameTables s (reserveAsked b s) := by
  obtain ⟨cfg, owner, offset, -, -, -, -, rx, agenda, -, bankEnv, -⟩ := reserveAsked_keeps b s
  exact ⟨cfg, owner, offset, fun b' hb => by rw [bankEnv, hb], fun hq => by rwa [ArbQuiet, rx, agenda]⟩

/-- No call disables a line: `bank_enable_interrupt_lines` adds its mask (R199). -/
theorem react_lines (call : Call) {k : Collab} {b : Bank} (h : (k.bank b).lineEn = 0b1111) :
    ((react call k).bank b).lineEn = 0b1111 := by
  cases call with
  | tryReserve b' a =>
    cases a with
    | none => exact h
    | some n =>
      by_cases hn : n < 4
      · simpa [react, hn] using h
      · simpa [react, hn] using h
  | load b' off =>
    by_cases hb : b = b'
    · subst hb; simpa [react] using h
    · simpa [react, setBank_bank, hb] using h
  | enableLines b' mask =>
    by_cases hb : b = b'
    · subst hb
      have hall : ∀ m : BitVec 4, 0b1111 ||| m = 0b1111 := by decide
      simp only [react, setBank_bank_same, h, hall]
    · simpa [react, setBank_bank, hb] using h
  | _ => exact h

/-! ## Claiming a slot -/

/-- `t` is `s` with the free slot `(b, c)` given to `sid`, and the offset of `b` written where `b` was not in use
(R116, R117). -/
structure Claims (b : Bank) (c : Chan) (sid : Sid) (s t : State) : Prop where
  cfg : t.cfg = s.cfg
  free : s.ownerAt (slot b c) = none
  owner : ∀ i, t.ownerAt i = if i = slot b c then some sid else s.ownerAt i
  offset : ∀ b', b' ≠ b ∨ bankInUse b' s = true → t.offsetAt b' = s.offsetAt b'
  lines : ∀ b', (s.bankEnv b').lineEn = 0b1111 → (t.bankEnv b').lineEn = 0b1111
  quiet : ArbQuiet s → ArbQuiet t

/-- An entry of OWNER, once written, stays (R116). -/
theorem Claims.keeps_owner {b : Bank} {c : Chan} {sid x : Sid} {i : Slot} {s t : State} (h : Claims b c sid s t)
    (hi : s.ownerAt i = some x) : t.ownerAt i = some x := by
  rw [h.owner, if_neg, hi]
  intro e
  rw [e, h.free] at hi
  cases hi

theorem claims_claimed (b : Bank) (c : Chan) (sid : Sid) {s : State} (free : s.ownerAt (slot b c) = none) :
    Claims b c sid s (claimed b c sid s) where
  cfg := (claimed_keeps b c sid s).1
  free := free
  owner := claimed_ownerAt b c sid s
  offset b' h := by
    rw [claimed_offsetAt, if_neg]
    rintro ⟨rfl, hu⟩
    rcases h with h | h
    · exact h rfl
    · rw [hu] at h; cases h
  lines b' h := by
    rw [claimed_bankEnv]
    split <;> exact h
  quiet hq := by
    obtain ⟨-, -, -, -, -, rx, agenda, -⟩ := claimed_keeps b c sid s
    rwa [ArbQuiet, rx, agenda]

theorem Claims.after {b : Bank} {c : Chan} {sid : Sid} {s u t : State} (h : SameTables s u) (h' : Claims b c sid u t) :
    Claims b c sid s t where
  cfg := h'.cfg.trans h.cfg
  free := (h.ownerAt _).symm.trans h'.free
  owner i := by rw [h'.owner, h.ownerAt]
  offset b' hb := by rw [h'.offset b' (by rwa [h.bankInUse]), h.offsetAt]
  lines b' hb := h'.lines b' (h.lines b' hb)
  quiet hq := h'.quiet (h.quiet hq)

theorem Claims.before {b : Bank} {c : Chan} {sid : Sid} {s u t : State} (h : Claims b c sid s u)
    (h' : SameTables u t) : Claims b c sid s t where
  cfg := h'.cfg.trans h.cfg
  free := h.free
  owner i := by rw [h'.ownerAt, h.owner]
  offset b' hb := by rw [h'.offsetAt, h.offset b' hb]
  lines b' hb := h'.lines b' (h.lines b' hb)
  quiet hq := h'.quiet (h.quiet hq)

/-- INIT after `allocate` writes no table, and enables the four lines of its bank (R144). -/
theorem sameTables_initSlot (sid : Sid) (b : Bank) (c : Chan) (off : Word) (s : State) :
    SameTables s (initSlot sid b c off s) := by
  obtain ⟨cfg, owner, offset, -, -, -, rx, agenda, -⟩ := initSlot_keeps sid b c off s
  obtain ⟨-, -, bank, banks⟩ := initSlot_collab sid b c off s
  refine ⟨cfg, owner, offset, fun b' hb => ?_, fun hq => by rwa [ArbQuiet, rx, agenda]⟩
  by_cases e : b' = b
  · subst e
    rw [bank, hb]
    rfl
  · rw [banks b' e, hb]

theorem initSlot_lines (sid : Sid) (b : Bank) (c : Chan) (off : Word) (s : State) :
    ((initSlot sid b c off s).bankEnv b).lineEn = 0b1111 := by
  have hall : ∀ m : BitVec 4, m ||| 0b1111 = 0b1111 := by decide
  rw [(initSlot_collab sid b c off s).2.2.1]
  exact hall _

/-! ## The cases -/

/-- What a step that is no RESET writes of the tables and the sessions. -/
inductive Writes (s : State) : State → Prop where
  | nothing {t : State} (tables : SameTables s t) (sessions : ∀ x, t.session x = s.session x) : Writes s t
  /-- The direction, the period and the watchdog of a session that owns a slot or has a watchdog pending
  (R170, R175). -/
  | measured {t : State} (sid : Sid) (tables : SameTables s t)
      (active : (∃ i, s.ownerAt i = some sid) ∨ (s.session sid).wd ≠ .idle)
      (session : ∃ d p w, t.session sid = { s.session sid with direction := d, periodUs := p, wd := w })
      (others : ∀ x, x ≠ sid → t.session x = s.session x) : Writes s t
  /-- CONSTRUCT (R141). -/
  | constructed {t : State} (sid : Sid) (pin : Word) (timeout : Word64) (tables : SameTables s t)
      (exists_ : sid.toNat < s.cfg.nSess) (absent : (s.session sid).fsm = .absent)
      (fits : maxCounterOf s.cfg timeout < 2 ^ 32)
      (session : t.session sid = { s.session sid with
        basePin := pin, timeoutUs := timeout, maxCounter := BitVec.ofNat 32 (maxCounterOf s.cfg timeout)
        fsm := .uninitialized })
      (others : ∀ x, x ≠ sid → t.session x = s.session x) : Writes s t
  /-- ALLOC and ALLOC.P, which come from the ARB port alone (R119, R245). -/
  | allocated {t : State} (b : Bank) (c : Chan) (sid : Sid) (reached : ¬ArbQuiet s) (claims : Claims b c sid s t)
      (sessions : ∀ x, t.session x = s.session x) : Writes s t
  /-- A successful INIT (R144). -/
  | initialized {t : State} (b : Bank) (c : Chan) (sid : Sid) (exists_ : sid.toNat < s.cfg.nSess)
      (uninit : (s.session sid).fsm = .uninitialized) (claims : Claims b c sid s t)
      (session : ∃ w, t.session sid = { s.session sid with
        fsm := .initialized, bank := b, channel := c, offset := t.offsetAt b, wd := w })
      (others : ∀ x, x ≠ sid → t.session x = s.session x)
      (lines : (t.bankEnv b).lineEn = 0b1111) : Writes s t

/-- A service or an expiry writes its own session's measurements. -/
theorem Served.writes {sid : Sid} {i : Slot} {s u t : State} (h : Served sid i u t) (hu : SameTables s u)
    (hs : ∀ x, u.session x = s.session x)
    (active : (∃ i, s.ownerAt i = some sid) ∨ (s.session sid).wd ≠ .idle) : Writes s t := by
  refine .measured sid (hu.trans h.sameTables) active ?_ fun x hx => (h.others x hx).trans (hs x)
  obtain ⟨d, p, w, e⟩ := h.session
  exact ⟨d, p, w, by rw [e, hs]⟩

theorem wd_of_expiryEnabled {sid : Sid} {s : State} (h : expiryEnabled sid s = true) : (s.session sid).wd ≠ .idle := by
  intro hw
  simp [expiryEnabled, hw] at h

theorem sameTables_captured (b : Bank) (c : Chan) (d r : Word) (s : State) :
    SameTables s (setCollab (capture (slot b c) d r s.timeUs s.collab) s) :=
  sameTables_setCollab fun _ h => h

/-- What an instruction writes, from a state a step has prepared. -/
theorem Effect.writes {s u t : State} (prepared : Prepared s u) (quiet : ArbQuiet s → ArbQuiet u)
    (port : ArbQuiet s → u.port ≠ .arb) (h : Effect u t) : Writes s t := by
  have hu := prepared.sameTables quiet
  cases h with
  | refused code => exact .nothing (hu.trans (sameTables_refuse code u)) prepared.session
  | answered ws => exact .nothing (hu.trans (sameTables_respond ws u)) prepared.session
  | constructed sid pin timeout exists_ absent fits =>
    rw [prepared.session] at absent
    rw [prepared.cfg] at exists_ fits
    refine .constructed sid pin timeout (hu.trans ((sameTables_setSession _ _ u).trans (sameTables_respond [0] _)))
      exists_ absent fits ?_ fun x hx => ?_
    · simp [prepared.session, prepared.cfg]
    · simp [setSession_session_ne u hx, prepared.session]
  | allocFailed s0 ws asked =>
    refine .nothing (hu.trans (asked.sameTables.trans (sameTables_respond ws s0))) fun x => ?_
    simp [asked.session, prepared.session]
  | arbitration s0 b n asked =>
    refine .nothing (hu.trans (asked.sameTables.trans
      ((sameTables_reserveAsked b s0).trans (sameTables_raiseFatal .arbitration _)))) fun x => ?_
    simp [State.session, reserveAsked_keeps, asked.sessions, prepared.sessions]
  | allocated s0 b c sid ws arb asked _ free =>
    rw [← asked.ownerAt] at free
    refine .allocated b c sid (fun hq => port hq arb)
      (.after (hu.trans asked.sameTables) ((claims_claimed b c sid free).before (sameTables_respond ws _)))
      fun x => ?_
    simp [claimed_session, asked.session, prepared.session]
  | initialized s0 b c sid exists_ uninit asked _ free =>
    rw [← asked.ownerAt] at free
    rw [prepared.session] at uninit
    rw [prepared.cfg] at exists_
    have same := sameTables_initSlot sid b c ((claimed b c sid s0).offsetAt b) (claimed b c sid s0)
    refine .initialized b c sid exists_ uninit
      (.after (hu.trans asked.sameTables) ((claims_claimed b c sid free).before (same.trans (sameTables_respond [0] _))))
      ⟨.pending (deadlineOf (claimed b c sid s0).timeUs (s.session sid).timeoutUs), ?_⟩ (fun x hx => ?_) ?_
    · simp only [respond_keeps, initSlot_session, claimed_session, asked.session, prepared.session, same.offsetAt]
    · simp [initSlot_session_ne hx, claimed_session, asked.session, prepared.session]
    · simpa using initSlot_lines sid b c _ _
  | captured b c d r => exact .nothing (hu.trans (sameTables_captured b c d r u)) prepared.session
  | capturedServed b c d r sid owner =>
    exact (onCapture_served sid _).writes (hu.trans (sameTables_captured b c d r u)) prepared.session
      (.inl ⟨_, (prepared.ownerAt _).symm.trans owner⟩)
  | capturedUnresolved b c d r =>
    exact .nothing (hu.trans ((sameTables_captured b c d r u).trans (sameTables_raiseFatal .unresolved _)))
      prepared.session
  | expired sid enabled =>
    exact (onExpiry_served sid 0 u).writes hu prepared.session
      (.inr (by rw [← prepared.session]; exact wd_of_expiryEnabled enabled))
  | timed now => exact .nothing (hu.trans (sameTables_setTime now u)) prepared.session

/-- The environment writes nothing of the block, and disables no line. -/
theorem StepEffect.writes {s t : State} (h : StepEffect s t) (hr : nextIsReset s = false) : Writes s t := by
  cases h with
  | waited u prepared quiet => exact .nothing (prepared.sameTables quiet) prepared.session
  | ran u t prepared _ quiet port effect => exact effect.writes prepared quiet port
  | expired sid _ enabled =>
    exact (onExpiry_served sid 0 s).writes ((Prepared.refl s).sameTables id) (fun _ => rfl)
      (.inr (wd_of_expiryEnabled enabled))
  | served u b c sid prepared _ quiet _ owner =>
    exact (onCapture_served sid u).writes (prepared.sameTables quiet) prepared.session (.inl ⟨_, owner⟩)
  | unresolved u b c prepared _ quiet =>
    exact .nothing ((prepared.sameTables quiet).trans (sameTables_raiseFatal .unresolved u)) prepared.session
  | environment u k prepared quiet move =>
    refine .nothing ((prepared.sameTables quiet).trans (sameTables_setCollab fun b hb => ?_)) prepared.session
    rw [prepared.bankEnv] at hb
    obtain ⟨_, _, _, _, _, _, rfl⟩ | ⟨_, _, _, _, rfl⟩ | ⟨b', room, off, _, _, rfl⟩ | ⟨call, _, rfl⟩ := move
    · exact hb
    · exact hb
    · rw [program_bank]
      split
      · rename_i e; subst e; exact hb
      · exact hb
    · exact react_lines call hb
  | reset _ _ _ isReset => rw [hr] at isReset; cases isReset

theorem step_writes {s t : State} (h : step s = .next t) (hr : nextIsReset s = false) : Writes s t :=
  (step_effect h).writes hr

end Sys2Proof.Machine
end

section
/-! The block invariant R38 (e) to (j) under every step (spec 10_state.md R38): what it says of one session, and what a
step must leave alone for that to stay so. -/

namespace Sys2Proof.Machine

/-! ## The invariant of one session -/

/-- What `BlockInv` says of the session `x`, its slot and its bank. -/
structure SessionOk (s : State) (x : Sid) : Prop where
  ownerOf : ∀ i, s.ownerAt i = some x →
    (s.session x).fsm = .initialized ∧ slot (s.session x).bank (s.session x).channel = i
  owned : (s.session x).fsm = .initialized → s.ownerAt (slot (s.session x).bank (s.session x).channel) = some x
  offsetOf : (s.session x).fsm = .initialized → (s.session x).offset = s.offsetAt (s.session x).bank
  quiet : (s.session x).fsm ≠ .initialized →
    (s.session x).periodUs = 0 ∧ (s.session x).direction = false ∧ (s.session x).wd = .idle
  absent : (s.session x).fsm = .absent → s.session x = Session.reset
  counter : (s.session x).fsm ≠ .absent → (s.session x).maxCounter.toNat = maxCounterOf s.cfg (s.session x).timeoutUs
  beyond : s.cfg.nSess ≤ x.toNat → (s.session x).fsm = .absent
  lines : (s.session x).fsm = .initialized → (s.bankEnv (s.session x).bank).lineEn = 0b1111

theorem BlockInv.sessionOk {s : State} (h : BlockInv s) (x : Sid) : SessionOk s x where
  ownerOf i := h.ownerOf i x
  owned := h.owned x
  offsetOf := h.offsetOf x
  quiet := h.quiet x
  absent := h.absent x
  counter := h.counter x
  beyond := h.beyond x
  lines := h.lines x

theorem BlockInv.arbQuiet {s : State} (h : BlockInv s) : ArbQuiet s := ⟨h.arbIdle, h.arbInternal⟩

/-- The block invariant is that of each session, and what it says of the whole block. -/
theorem blockInv_of_sessionOk {s : State} (cfgWf : s.cfg.wf) (sessions : ∀ x, SessionOk s x)
    (offsetUsed : ∀ b, s.offsetAt b ≠ 0 → bankInUse b s = true) (arb : ArbQuiet s) : BlockInv s where
  cfgWf := cfgWf
  ownerOf i x := (sessions x).ownerOf i
  owned x := (sessions x).owned
  offsetUsed := offsetUsed
  offsetOf x := (sessions x).offsetOf
  quiet x := (sessions x).quiet
  absent x := (sessions x).absent
  counter x := (sessions x).counter
  beyond x := (sessions x).beyond
  lines x := (sessions x).lines
  arbIdle := arb.1
  arbInternal := arb.2

/-- An Initialized session's bank is in use (R112). -/
theorem SessionOk.bankInUse {s : State} {x : Sid} (h : SessionOk s x) (hx : (s.session x).fsm = .initialized) :
    bankInUse (s.session x).bank s = true :=
  (bankInUse_iff _ s).2 ⟨_, x, h.owned hx⟩

/-- The invariant of one session stays where its fields, the slots it owns, the offsets of the banks in use and the
enabled lines stay. -/
theorem SessionOk.frame {s t : State} {x : Sid} (h : SessionOk s x) (cfg : t.cfg = s.cfg)
    (session : t.session x = s.session x) (owner : ∀ i, t.ownerAt i = some x ↔ s.ownerAt i = some x)
    (offset : ∀ b, Machine.bankInUse b s = true → t.offsetAt b = s.offsetAt b)
    (lines : ∀ b, (s.bankEnv b).lineEn = 0b1111 → (t.bankEnv b).lineEn = 0b1111) : SessionOk t x where
  ownerOf i hi := by
    rw [session]
    exact h.ownerOf i ((owner i).1 hi)
  owned hx := by
    rw [session] at hx ⊢
    exact (owner _).2 (h.owned hx)
  offsetOf hx := by
    rw [session] at hx ⊢
    rw [offset _ (h.bankInUse hx), h.offsetOf hx]
  quiet := by
    rw [session]
    exact h.quiet
  absent := by
    rw [session]
    exact h.absent
  counter := by
    rw [session, cfg]
    exact h.counter
  beyond := by
    rw [session, cfg]
    exact h.beyond
  lines hx := by
    rw [session] at hx ⊢
    exact lines _ (h.lines hx)

/-- A step that leaves the tables alone keeps the invariant where it keeps that of the sessions it writes. -/
theorem BlockInv.sameTables {s t : State} (h : BlockInv s) (tables : SameTables s t)
    (sessions : ∀ x, t.session x = s.session x ∨ SessionOk t x) : BlockInv t := by
  refine blockInv_of_sessionOk (by rw [tables.cfg]; exact h.cfgWf) (fun x => ?_) (fun b hb => ?_)
    (tables.quiet h.arbQuiet)
  · obtain hx | hx := sessions x
    · exact (h.sessionOk x).frame tables.cfg hx (fun i => by rw [tables.ownerAt]) (fun b _ => tables.offsetAt b)
        tables.lines
    · exact hx
  · rw [tables.bankInUse]
    exact h.offsetUsed b (by rwa [← tables.offsetAt])

/-! ## The sessions a step writes -/

/-- The direction, the period and the watchdog of an Initialized session are free (R38 (h), (i)). -/
theorem SessionOk.measured {s t : State} {x : Sid} (h : SessionOk s x) (hx : (s.session x).fsm = .initialized)
    (tables : SameTables s t)
    (session : ∃ d p w, t.session x = { s.session x with direction := d, periodUs := p, wd := w }) :
    SessionOk t x := by
  obtain ⟨d, p, w, e⟩ := session
  constructor <;> simp only [e, hx, tables.cfg, tables.ownerAt, tables.offsetAt]
  case ownerOf => exact fun i hi => ⟨trivial, (h.ownerOf i hi).2⟩
  case owned => exact fun _ => h.owned hx
  case offsetOf => exact fun _ => h.offsetOf hx
  case quiet => exact fun hne => absurd rfl hne
  case absent => exact nofun
  case counter => exact fun _ => h.counter (by rw [hx]; decide)
  case beyond => exact fun hn => absurd (h.beyond hn) (by rw [hx]; decide)
  case lines => exact fun _ => tables.lines _ (h.lines hx)

/-- A session that owns a slot or has a watchdog pending is Initialized (R38 (e), (h)). -/
theorem SessionOk.initialized_of_active {s : State} {x : Sid} (h : SessionOk s x)
    (active : (∃ i, s.ownerAt i = some x) ∨ (s.session x).wd ≠ .idle) : (s.session x).fsm = .initialized := by
  obtain ⟨i, hi⟩ | hw := active
  · exact (h.ownerOf i hi).1
  · exact Decidable.byContradiction fun hne => hw (h.quiet hne).2.2

/-- A session that is not Initialized owns no slot (R38 (e)). -/
theorem SessionOk.owns_nothing {s : State} {x : Sid} (h : SessionOk s x) (hx : (s.session x).fsm ≠ .initialized)
    (i : Slot) : s.ownerAt i ≠ some x :=
  fun hi => hx (h.ownerOf i hi).1

/-- CONSTRUCT leaves a quiet session with its count computed (R38 (i), (j)). -/
theorem SessionOk.constructed {s t : State} {x : Sid} {pin : Word} {timeout : Word64} (h : SessionOk s x)
    (tables : SameTables s t) (exists_ : x.toNat < s.cfg.nSess) (absent : (s.session x).fsm = .absent)
    (fits : maxCounterOf s.cfg timeout < 2 ^ 32)
    (session : t.session x = { s.session x with
      basePin := pin, timeoutUs := timeout, maxCounter := BitVec.ofNat 32 (maxCounterOf s.cfg timeout)
      fsm := .uninitialized }) : SessionOk t x := by
  have hne : (s.session x).fsm ≠ .initialized := by rw [absent]; decide
  constructor <;> simp only [session, tables.cfg, tables.ownerAt]
  case ownerOf => exact fun i hi => absurd hi (h.owns_nothing hne i)
  case owned => exact nofun
  case offsetOf => exact nofun
  case quiet => exact fun _ => h.quiet hne
  case absent => exact nofun
  case counter => exact fun _ => by rw [BitVec.toNat_ofNat, Nat.mod_eq_of_lt fits]
  case beyond => exact fun hn => absurd exists_ (Nat.not_lt.2 hn)
  case lines => exact nofun

/-- INIT binds its session to the claimed slot (R38 (e) to (g)). -/
theorem SessionOk.initialized {s t : State} {x : Sid} {b : Bank} {c : Chan} (h : SessionOk s x)
    (exists_ : x.toNat < s.cfg.nSess) (uninit : (s.session x).fsm = .uninitialized) (claims : Claims b c x s t)
    (session : ∃ w, t.session x = { s.session x with
      fsm := .initialized, bank := b, channel := c, offset := t.offsetAt b, wd := w })
    (lines : (t.bankEnv b).lineEn = 0b1111) : SessionOk t x := by
  have hne : (s.session x).fsm ≠ .initialized := by rw [uninit]; decide
  obtain ⟨w, e⟩ := session
  constructor <;> simp only [e, claims.cfg, claims.owner]
  case ownerOf =>
    intro i hi
    split at hi
    · exact ⟨trivial, Eq.symm ‹i = slot b c›⟩
    · exact absurd hi (h.owns_nothing hne i)
  case owned => exact fun _ => if_pos trivial
  case offsetOf => exact fun _ => trivial
  case quiet => exact fun hq => absurd rfl hq
  case absent => exact nofun
  case counter => exact fun _ => h.counter (by rw [uninit]; decide)
  case beyond => exact fun hn => absurd exists_ (Nat.not_lt.2 hn)
  case lines => exact fun _ => lines

/-! ## Claiming a slot -/

theorem Claims.bankInUse {b : Bank} {c : Chan} {sid : Sid} {s t : State} (h : Claims b c sid s t) {b' : Bank}
    (hb : b' = b ∨ bankInUse b' s = true) : bankInUse b' t = true := by
  rw [bankInUse_iff] at hb ⊢
  obtain rfl | ⟨c', y, hy⟩ := hb
  · exact ⟨c, sid, by rw [h.owner, if_pos rfl]⟩
  · exact ⟨c', y, h.keeps_owner hy⟩

/-- A claim leaves the slots of the other sessions as they were. -/
theorem Claims.owner_iff {b : Bank} {c : Chan} {sid x : Sid} {s t : State} (h : Claims b c sid s t) (hx : x ≠ sid)
    (i : Slot) : t.ownerAt i = some x ↔ s.ownerAt i = some x := by
  rw [h.owner]
  split
  · rename_i e
    rw [e, h.free]
    exact iff_of_false (fun hs => hx (Option.some.inj hs).symm) nofun
  · exact Iff.rfl

theorem BlockInv.claims {s t : State} {b : Bank} {c : Chan} {sid : Sid} (h : BlockInv s) (claims : Claims b c sid s t)
    (session : SessionOk t sid) (others : ∀ x, x ≠ sid → t.session x = s.session x) : BlockInv t := by
  refine blockInv_of_sessionOk (by rw [claims.cfg]; exact h.cfgWf) (fun x => ?_) (fun b' hb => ?_)
    (claims.quiet h.arbQuiet)
  · by_cases hx : x = sid
    · rw [hx]
      exact session
    · exact (h.sessionOk x).frame claims.cfg (others x hx) (claims.owner_iff hx) (fun b' hu => claims.offset b' (.inr hu))
        claims.lines
  · by_cases hb' : b' = b
    · exact claims.bankInUse (.inl hb')
    · rw [claims.offset b' (.inl hb')] at hb
      exact claims.bankInUse (.inr (h.offsetUsed b' hb))

/-! ## Every step -/

/-- A well-formed configuration and an internal ARB port are all the invariant needs after RESET (R50). -/
theorem blockInv_resetBlock {s : State} (cfgWf : s.cfg.wf) (agenda : ∀ e ∈ s.agenda, e.leavesArb = true) :
    BlockInv (resetBlock s) where
  cfgWf := cfgWf
  ownerOf := by simp
  owned := by simp [Session.reset]
  offsetUsed := by simp
  offsetOf := by simp [Session.reset]
  quiet := by simp [Session.reset]
  absent := by simp
  counter := by simp [Session.reset]
  beyond := by simp [Session.reset]
  lines := by simp [Session.reset]
  arbIdle := by simp [Rx.reset]
  arbInternal := agenda

theorem BlockInv.writes {s t : State} (h : BlockInv s) (w : Writes s t) : BlockInv t := by
  cases w with
  | nothing tables sessions => exact h.sameTables tables fun x => .inl (sessions x)
  | measured sid tables active session others =>
    refine h.sameTables tables fun x => ?_
    by_cases hx : x = sid
    · rw [hx]
      have ok := h.sessionOk sid
      exact .inr (ok.measured (ok.initialized_of_active active) tables session)
    · exact .inl (others x hx)
  | constructed sid pin timeout tables exists_ absent fits session others =>
    refine h.sameTables tables fun x => ?_
    by_cases hx : x = sid
    · rw [hx]
      exact .inr ((h.sessionOk sid).constructed tables exists_ absent fits session)
    · exact .inl (others x hx)
  | allocated _ _ _ reached => exact absurd h.arbQuiet reached
  | initialized b c sid exists_ uninit claims session others lines =>
    exact h.claims claims ((h.sessionOk sid).initialized exists_ uninit claims session lines) others

/-- A step that is a RESET resets the block. -/
theorem step_reset {s : State} {ag : List Event} (h : s.agenda = .reset :: ag) :
    step s = .next (resetBlock (setAgenda ag s)) := by
  rw [step_eq, h]
  rfl

theorem nextIsReset_iff (s : State) : nextIsReset s = true ↔ ∃ ag, s.agenda = .reset :: ag := by
  unfold nextIsReset
  split
  · rename_i ag h
    exact iff_of_true rfl ⟨ag, h⟩
  · rename_i h
    exact iff_of_false Bool.false_ne_true fun ⟨ag, e⟩ => h ag e

/-- Settles O49: RESET establishes the invariant anew; any other step writes one of the things `Writes` lists, and each
of them keeps the invariant of the session it is about and leaves that of the others alone. -/
theorem blockInvIsKept : Obligations.BlockInvIsKept := by
  intro s t h hstep
  by_cases hr : nextIsReset s = true
  · obtain ⟨ag, hag⟩ := (nextIsReset_iff s).1 hr
    rw [step_reset hag] at hstep
    cases hstep
    exact blockInv_resetBlock h.cfgWf fun e he => h.arbInternal e (by rw [hag]; exact List.mem_cons_of_mem _ he)
  · exact h.writes (step_writes hstep (by simpa using hr))

/-! ## Initialized sessions and their slots (R38 (f), (k)) -/

/-- Settles O50: the slot its `bank` and `channel` name, and by (e) no other. -/
theorem initializedOwnsExactlyOneSlot : Obligations.InitializedOwnsExactlyOneSlot :=
  fun _ sid h hi => ⟨_, h.owned sid hi, fun j hj => (h.ownerOf j sid hj).2.symm⟩

/-- The global index of the slot a session is bound to (R61). -/
def slotOf (s : State) (sid : Sid) : Slot := slot (s.session sid).bank (s.session sid).channel

/-- Two Initialized sessions have different slots: a slot has one owner (R38 (f)). -/
theorem BlockInv.slotOf_injOn {s : State} (h : BlockInv s) {x y : Sid} (hx : (s.session x).fsm = .initialized)
    (hy : (s.session y).fsm = .initialized) (hxy : slotOf s x = slotOf s y) : x = y := by
  have hown : s.ownerAt (slotOf s y) = some x := hxy ▸ h.owned x hx
  exact Option.some.inj (hown.symm.trans (h.owned y hy))

/-- The global indices, in ascending order (R61). -/
def allSlots : List Slot := [0, 1, 2, 3, 4, 5, 6, 7]

theorem mem_allSlots (i : Slot) : i ∈ allSlots := by
  revert i
  decide

theorem BlockInv.nodup_slots {s : State} (h : BlockInv s) :
    ((allSids.filter fun sid => (s.session sid).initialized).map (slotOf s)).Nodup := by
  have hsids : (allSids.filter fun sid => (s.session sid).initialized).Nodup :=
    List.Pairwise.filter _ (by decide : allSids.Nodup)
  refine List.pairwise_map.2 (List.Pairwise.imp_of_mem (fun {x y} hx hy hne hxy => hne ?_) hsids)
  simp only [List.mem_filter, Session.initialized, beq_iff_eq] at hx hy
  exact h.slotOf_injOn hx.2 hy.2 hxy

/-- Settles O51: the slots of the Initialized sessions are distinct, and there are eight slots. -/
theorem atMostEightInitialized : Obligations.AtMostEightInitialized := by
  intro s h
  calc (allSids.filter fun sid => (s.session sid).initialized).length
      = ((allSids.filter fun sid => (s.session sid).initialized).map (slotOf s)).length := (List.length_map _).symm
    _ ≤ allSlots.length := h.nodup_slots.length_le_of_subset fun i _ => mem_allSlots i
    _ = 8 := rfl

end Sys2Proof.Machine
end

section
/-! The closed-system invariant R39 (l), (m) under every step: which operations touch reservations and residencies. -/

namespace Sys2Proof.Machine

/-! ## Operations that keep the invariant -/

theorem ClosedInv.prepared {s u : State} (h : ClosedInv s) (hu : Prepared s u) : ClosedInv u :=
  h.congr hu.cfg hu.owner (fun i => by rw [hu.chan]) fun b => by rw [hu.bankEnv]

theorem ClosedInv.respond {s : State} (h : ClosedInv s) (ws : List Word) : ClosedInv (respond ws s) :=
  h.congr rfl rfl (fun _ => rfl) fun _ => rfl

theorem ClosedInv.raiseFatal {s : State} (h : ClosedInv s) (code : FatalCode) : ClosedInv (raiseFatal code s) :=
  h.congr rfl rfl (fun _ => rfl) fun _ => rfl

/-- A service keeps every reservation (R174). -/
theorem ClosedInv.served {sid : Sid} {i : Slot} {s t : State} (h : ClosedInv s) (hv : Served sid i s t) :
    ClosedInv t := by
  refine h.congr hv.cfg hv.owner (fun j => ?_) fun b => by rw [hv.bankEnv]
  by_cases hj : j = i
  · obtain ⟨a, f, g, e⟩ := hv.chan
    rw [hj, e]
  · rw [hv.chans j hj]

/-- The collaborator's own moves reserve and load nothing. -/
theorem ClosedInv.setCollab {s : State} {k : Collab} (h : ClosedInv s)
    (reserved : ∀ i, (k.chan i).reserved = (s.chan i).reserved)
    (resident : ∀ b, (k.bank b).resident = (s.bankEnv b).resident) : ClosedInv (setCollab k s) :=
  h.congr rfl rfl reserved resident

theorem capture_reserved (i j : Slot) (d r : Word) (now : Word64) (k : Collab) :
    ((capture i d r now k).chan j).reserved = (k.chan j).reserved := by
  rw [capture_chan]
  split
  · rename_i e; rw [e]
  · rfl

theorem strayFlag_reserved (i j : Slot) (now : Word64) (k : Collab) :
    ((strayFlag i now k).chan j).reserved = (k.chan j).reserved := by
  rw [strayFlag_chan]
  split
  · rename_i e; rw [e]
  · rfl

theorem program_resident (b b' : Bank) (room : Bool) (off : Word) (k : Collab) :
    ((program b room off k).bank b').resident = (k.bank b').resident := by
  rw [program_bank]
  split
  · rename_i e; rw [e]
  · rfl

theorem ClosedInv.captured {s : State} (h : ClosedInv s) (b : Bank) (c : Chan) (d r : Word) :
    ClosedInv (Machine.setCollab (capture (slot b c) d r s.timeUs s.collab) s) :=
  h.setCollab (fun i => capture_reserved _ i d r _ _) fun _ => rfl

/-- INIT after `allocate` reserves nothing more and loads nothing (R144). -/
theorem ClosedInv.initSlot {s : State} (h : ClosedInv s) (sid : Sid) (b : Bank) (c : Chan) (off : Word) :
    ClosedInv (initSlot sid b c off s) := by
  obtain ⟨cfg, owner, -⟩ := initSlot_keeps sid b c off s
  obtain ⟨chan, chans, bank, banks⟩ := initSlot_collab sid b c off s
  refine h.congr cfg owner (fun i => ?_) fun b' => ?_
  · by_cases hi : i = slot b c
    · rw [hi, chan]
    · rw [chans i hi]
  · by_cases hb : b' = b
    · rw [hb, bank]
    · rw [banks b' hb]

/-! ## The answers of a closed collaborator -/

/-- In the closed system no answer is out of contract: the channel it names is not reserved, so it is not owned
(R115, R193). -/
theorem ClosedInv.answer_free {s : State} {b : Bank} {n : Nat} (h : ClosedInv s) (ha : reserveAnswer b s = some n) :
    n < 4 ∧ s.ownerAt (slot b (BitVec.ofNat 2 n)) = none := by
  rw [reserveAnswer_closed h.closed] at ha
  obtain ⟨c, rfl, hc⟩ := lowestFree_some ha
  refine ⟨c.isLt, ?_⟩
  have howned := h.reservedOwned (slot b c)
  rw [← collab_chan, hc] at howned
  rw [BitVec.ofNat_toNat, BitVec.setWidth_eq]
  exact Option.not_isSome_iff_eq_none.1 (by rw [← howned]; decide)

/-! ## Every step -/

theorem Effect.closedInv {s t : State} (h : ClosedInv s) (e : Effect s t) : ClosedInv t := by
  cases e with
  | refused code => exact h.congr rfl rfl (fun _ => rfl) fun _ => rfl
  | answered ws => exact h.respond ws
  | constructed => exact h.congr rfl rfl (fun _ => rfl) fun _ => rfl
  | allocFailed s0 ws asked => exact (h.asked asked).respond ws
  | arbitration s0 b n asked answer bad =>
    rw [← asked.ownerAt] at bad
    exact absurd ((h.asked asked).answer_free answer) bad
  | allocated s0 b c sid ws _ asked answer free =>
    rw [← asked.ownerAt] at free
    exact ((h.asked asked).claimed sid answer free).respond ws
  | initialized s0 b c sid _ _ asked answer free =>
    rw [← asked.ownerAt] at free
    exact (((h.asked asked).claimed sid answer free).initSlot sid b c _).respond [0]
  | captured b c d r => exact h.captured b c d r
  | capturedServed b c d r sid => exact (h.captured b c d r).served (onCapture_served sid _)
  | capturedUnresolved b c d r => exact (h.captured b c d r).raiseFatal .unresolved
  | expired sid => exact h.served (onExpiry_served sid 0 s)
  | timed => exact h.congr rfl rfl (fun _ => rfl) fun _ => rfl

/-- After RESET nothing is reserved, owned, resident or in use (R50, R252). -/
theorem closedInv_resetBlock {s : State} (closed : s.cfg.collabClosed = true) : ClosedInv (resetBlock s) where
  closed := closed
  reservedOwned i := by simp [Channel.reset]
  residentInUse b := by simp [bankInUse]

/-- What the environment may do in the closed system: everything but calls of other users (R192). -/
theorem StepEffect.closedInv {s t : State} (h : ClosedInv s) (e : StepEffect s t) : ClosedInv t := by
  cases e with
  | waited _ prepared => exact h.prepared prepared
  | ran u _ prepared _ _ _ effect => exact effect.closedInv (h.prepared prepared)
  | expired sid => exact h.served (onExpiry_served sid 0 s)
  | served u _ _ sid prepared => exact (h.prepared prepared).served (onCapture_served sid u)
  | unresolved u _ _ prepared => exact (h.prepared prepared).raiseFatal .unresolved
  | environment u k prepared _ move =>
    have hu := h.prepared prepared
    rw [← prepared.collab] at move
    obtain ⟨_, _, _, _, _, _, rfl⟩ | ⟨_, _, _, _, rfl⟩ | ⟨_, _, _, _, _, rfl⟩ | ⟨_, hopen, _⟩ := move
    · exact hu.setCollab (fun i => capture_reserved ..) fun _ => rfl
    · exact hu.setCollab (fun i => strayFlag_reserved ..) fun _ => rfl
    · exact hu.setCollab (fun _ => rfl) fun b => program_resident ..
    · rw [h.closed] at hopen
      cases hopen
  | reset u prepared => exact closedInv_resetBlock (h.prepared prepared).closed

/-- Settles O53: `allocate` reserves what it claims and loads where it brings a bank into use; nothing else touches a
reservation, a residency or an owner. -/
theorem closedInvIsKept : Obligations.ClosedInvIsKept :=
  fun _ _ h hstep => (step_effect hstep).closedInv h

end Sys2Proof.Machine
end

section
/-! Whole-machine rules about OWNER, OFFSET and the session units (spec 10_state.md R20 to R30, R37, R40), from what a
step writes of them. -/

namespace Sys2Proof.Machine

/-! ## No teardown (R40) -/

theorem Writes.ownerAt {s t : State} (h : Writes s t) {i : Slot} {sid : Sid} (hi : s.ownerAt i = some sid) :
    t.ownerAt i = some sid := by
  cases h with
  | nothing tables => rw [tables.ownerAt, hi]
  | measured _ tables => rw [tables.ownerAt, hi]
  | constructed _ _ _ tables => rw [tables.ownerAt, hi]
  | allocated _ _ _ _ claims => exact claims.keeps_owner hi
  | initialized _ _ _ _ _ claims => exact claims.keeps_owner hi

theorem Writes.bankInUse {s t : State} (h : Writes s t) {b : Bank} (hb : bankInUse b s = true) :
    bankInUse b t = true := by
  rw [bankInUse_iff] at hb ⊢
  obtain ⟨c, sid, hi⟩ := hb
  exact ⟨c, sid, h.ownerAt hi⟩

/-- The offset of a bank in use stays (R21). -/
theorem Writes.offsetAt {s t : State} (h : Writes s t) {b : Bank} (hb : Machine.bankInUse b s = true) :
    t.offsetAt b = s.offsetAt b := by
  cases h with
  | nothing tables => exact tables.offsetAt b
  | measured _ tables => exact tables.offsetAt b
  | constructed _ _ _ tables => exact tables.offsetAt b
  | allocated _ _ _ _ claims => exact claims.offset b (.inr hb)
  | initialized _ _ _ _ _ claims => exact claims.offset b (.inr hb)

/-! ## The life of one session (R24 to R31) -/

/-- The ways one session unit changes: its measurements move, it is constructed, or it is given a slot. -/
inductive Moves (u : Session) : Session → Prop where
  /-- R170, R175; with the values it has, a session that stays as it is. -/
  | measured (d : Bool) (p : Word64) (w : Watchdog) : Moves u { u with direction := d, periodUs := p, wd := w }
  /-- R141. -/
  | constructed (pin : Word) (timeout : Word64) (m : Word) (absent : u.fsm = .absent) :
      Moves u { u with basePin := pin, timeoutUs := timeout, maxCounter := m, fsm := .uninitialized }
  /-- R144. -/
  | initialized (b : Bank) (c : Chan) (off : Word) (w : Watchdog) (uninit : u.fsm = .uninitialized) :
      Moves u { u with fsm := .initialized, bank := b, channel := c, offset := off, wd := w }

theorem Moves.refl (u : Session) : Moves u u := .measured u.direction u.periodUs u.wd

/-- Every session makes one of these moves under every step that is no RESET. -/
theorem Writes.moves {s t : State} (h : Writes s t) (x : Sid) : Moves (s.session x) (t.session x) := by
  have other : ∀ {sid}, (∀ x, x ≠ sid → t.session x = s.session x) → Moves (s.session sid) (t.session sid) →
      Moves (s.session x) (t.session x) := by
    intro sid others move
    by_cases hx : x = sid
    · rw [hx]
      exact move
    · rw [others x hx]
      exact .refl _
  cases h with
  | nothing _ sessions => rw [sessions]; exact .refl _
  | allocated _ _ _ _ _ sessions => rw [sessions]; exact .refl _
  | measured sid _ _ session others =>
    obtain ⟨d, p, w, e⟩ := session
    exact other others (by rw [e]; exact .measured d p w)
  | constructed sid pin timeout _ _ absent _ session others =>
    exact other others (by rw [session]; exact .constructed pin timeout _ absent)
  | initialized b c sid _ uninit _ session others =>
    obtain ⟨w, e⟩ := session
    exact other others (by rw [e]; exact .initialized b c _ w uninit)

theorem Moves.fsm_initialized {u v : Session} (h : Moves u v) (hu : u.fsm = .initialized) : v.fsm = .initialized := by
  cases h with
  | measured => exact hu
  | constructed _ _ _ absent => rw [absent] at hu; cases hu
  | initialized => rfl

theorem Moves.fsm_ne_absent {u v : Session} (h : Moves u v) (hu : u.fsm ≠ .absent) : v.fsm ≠ .absent := by
  cases h with
  | measured => exact hu
  | constructed => exact nofun
  | initialized => exact nofun

/-- A constructed session keeps what CONSTRUCT wrote (R25, R26). -/
theorem Moves.parameters {u v : Session} (h : Moves u v) (hu : u.fsm ≠ .absent) :
    v.basePin = u.basePin ∧ v.timeoutUs = u.timeoutUs ∧ v.maxCounter = u.maxCounter := by
  cases h with
  | measured => exact ⟨rfl, rfl, rfl⟩
  | constructed _ _ _ absent => exact absurd absent hu
  | initialized => exact ⟨rfl, rfl, rfl⟩

/-- An Initialized session keeps its slot (R30). -/
theorem Moves.slot {u v : Session} (h : Moves u v) (hu : u.fsm = .initialized) :
    v.bank = u.bank ∧ v.channel = u.channel ∧ v.offset = u.offset := by
  cases h with
  | measured => exact ⟨rfl, rfl, rfl⟩
  | constructed => exact ⟨rfl, rfl, rfl⟩
  | initialized _ _ _ _ uninit => rw [uninit] at hu; cases hu

/-- Settles O46: a step that is no RESET only adds to OWNER, writes no offset of a bank in use, and moves a session only
forwards. -/
theorem nothingIsTornDown : Obligations.NothingIsTornDown := by
  intro s t hstep hr
  have w := step_writes hstep hr
  exact ⟨fun _ _ => w.ownerAt, fun _ hb => ⟨w.bankInUse hb, w.offsetAt hb⟩, fun sid => (w.moves sid).fsm_initialized,
    fun sid hu => (w.moves sid).fsm_ne_absent (by rw [hu]; decide)⟩

/-- Settles O47: CONSTRUCT acts on an Absent session alone, and INIT on an Uninitialized one. -/
theorem sessionParametersAreFixed : Obligations.SessionParametersAreFixed := by
  intro s t hstep hr sid hu
  have move := (step_writes hstep hr).moves sid
  obtain ⟨pin, timeout, count⟩ := move.parameters hu
  exact ⟨pin, timeout, count, move.slot⟩

/-! ## The tables (R20, R21, R245) -/

theorem sessionCommand_tables {sid : Sid} {allowed : List Fsm} {s k t : State}
    (h : sessionCommand sid allowed s k = .next t) (hk : SameTables s k) : SameTables s t := by
  obtain ⟨-, ⟨code, rfl⟩ | ⟨rfl, -⟩⟩ := sessionCommand_next h
  · exact sameTables_refuse code s
  · exact hk

theorem construct_tables (sid : Sid) (pin : Word) (timeout : Word64) (s : State) :
    SameTables s (construct sid pin timeout s) := by
  obtain ⟨-, e⟩ | ⟨-, e⟩ := construct_cases sid pin timeout s
  · rw [e]
    exact sameTables_refuse .range s
  · rw [e]
    exact (sameTables_setSession sid _ s).trans (sameTables_respond [0] _)

theorem queryCommand_tables {answer : Word} {s t : State} (h : queryCommand answer s = .next t) : SameTables s t := by
  unfold queryCommand at h
  obtain ⟨-, h⟩ := whenRunning_next s h
  split at h <;> cases h
  · exact sameTables_refuse .port s
  · exact sameTables_respond _ s

theorem serveCapture_tables (b : Bank) (c : Chan) (s : State) : SameTables s (serveCapture b c s) := by
  cases ho : s.ownerAt (slot b c) with
  | none => rw [serveCapture_unowned ho]; exact sameTables_raiseFatal .unresolved s
  | some sid => rw [serveCapture_owned ho]; exact (onCapture_served sid s).sameTables

theorem captureAndServe_tables (b : Bank) (c : Chan) (d r : Word) (s : State) :
    SameTables s (captureAndServe b c d r s) := by
  cases hl : (s.bankEnv b).lineEn.getLsbD c.toNat with
  | true =>
    rw [captureAndServe_enabled d r hl]
    exact (sameTables_captured b c d r s).trans (serveCapture_tables b c _)
  | false =>
    rw [captureAndServe_disabled d r hl]
    exact sameTables_captured b c d r s

/-- Every instruction that does not allocate leaves the tables alone. -/
theorem exec_tables {i : Instr} {s t : State} (h : exec i s = .next t) (hinit : ∀ sid, i ≠ .init sid)
    (halloc : ∀ sid, i ≠ .alloc sid) (hallocP : ∀ sid p, i ≠ .allocP sid p) : SameTables s t := by
  cases i with
  | construct sid pin timeout => exact sessionCommand_tables h (construct_tables sid pin timeout s)
  | init sid => exact absurd rfl (hinit sid)
  | getdir sid => exact sessionCommand_tables h (sameTables_respond _ s)
  | getper sid => exact sessionCommand_tables h (sameTables_respond _ s)
  | getbank sid => exact sessionCommand_tables h (sameTables_respond _ s)
  | alloc sid => exact absurd rfl (halloc sid)
  | allocP sid p => exact absurd rfl (hallocP sid p)
  | resolve b c => exact queryCommand_tables h
  | bankuse b => exact queryCommand_tables h
  | progoff b => exact queryCommand_tables h
  | evCapture b c d r =>
    obtain rfl | ⟨-, e⟩ := stimulusCommand_next h
    · exact sameTables_refuse .port s
    · cases e
      exact captureAndServe_tables b c d r s
  | evWdexp sid =>
    obtain rfl | ⟨-, e⟩ := stimulusCommand_next h
    · exact sameTables_refuse .port s
    · split at e <;> cases e
      exact (onExpiry_served sid 0 s).sameTables
  | evTime now =>
    obtain rfl | ⟨-, e⟩ := stimulusCommand_next h
    · exact sameTables_refuse .port s
    · split at e <;> cases e
      exact sameTables_setTime now s

/-- Settles O43, instruction by instruction. -/
theorem onlyAllocationWritesTheTables : Obligations.OnlyAllocationWritesTheTables := by
  intro i s t h hinit halloc hallocP
  have same := exec_tables h hinit halloc hallocP
  exact ⟨same.owner, same.offset⟩

/-! ## One session at a time (R22) -/

/-- Which session an instruction may write depends on the owners alone. -/
theorem sessionWritten_prepared {s u : State} (h : Prepared s u) (i : Instr) :
    sessionWritten i u = sessionWritten i s := by
  cases i with
  | evCapture b c d r => exact h.ownerAt (slot b c)
  | _ => rfl

theorem serveCapture_session {b : Bank} {c : Chan} {s : State} {x : Sid} (hx : s.ownerAt (slot b c) ≠ some x) :
    (serveCapture b c s).session x = s.session x := by
  cases ho : s.ownerAt (slot b c) with
  | none => rw [serveCapture_unowned ho]; rfl
  | some sid =>
    rw [serveCapture_owned ho]
    exact (onCapture_served sid s).others x fun e => hx (by rw [ho, e])

/-- Taking a command writes no session but the one its words are about. -/
theorem takeCommand_session {p : Port} {ws : List Word} {s t : State} {x : Sid} (h : takeCommand p ws s = .next t)
    (hx : sessionOfWords ws s ≠ some x) : t.session x = s.session x := by
  obtain ⟨-, rfl | ⟨why, rest, -, rfl⟩ | ⟨i, rest, hd, he⟩⟩ := takeCommand_next h
  · exact setRx_session s p ws x
  · exact setRx_session s p rest x
  · have hw : sessionWritten i (setPort p (setRx p rest s)) ≠ some x := by
      rw [sessionWritten_prepared (prepared_setPort p (prepared_setRx p rest (.refl s)))]
      simpa only [sessionOfWords, hd] using hx
    exact (exec_session he hw).trans (setRx_session s p rest x)

/-- The block left to itself writes no session but the one that comes next (R233). -/
theorem settle_session {s t : State} {x : Sid} (ha : s.agenda = []) (h : settle s = .next t)
    (hx : nextSession s ≠ some x) : t.session x = s.session x := by
  obtain ⟨-, h⟩ := whenRunning_next s h
  split at h
  · cases h; rfl
  unfold serveNext at h
  cases hcapture : s.cfg.irqOrder.find? (pendingSlot s) with
  | some i =>
    simp only [hcapture] at h
    simp only [nextSession, ha, hcapture] at hx
    cases h
    exact serveCapture_session (by rwa [slot_bankOf_chanOf])
  | none =>
    cases hexpiry : allSids.find? fun sid => expiryEnabled sid s with
    | some sid =>
      simp only [hcapture, hexpiry] at h
      simp only [nextSession, ha, hcapture, hexpiry] at hx
      cases h
      exact (onExpiry_served sid 0 s).others x fun e => hx (by rw [e])
    | none =>
      cases hport : [Port.host, Port.arb, Port.stimulus].find? fun p => commandReady p s with
      | some p =>
        simp only [hcapture, hexpiry, hport] at h
        simp only [nextSession, ha, hcapture, hexpiry, hport] at hx
        exact takeCommand_session h hx
      | none =>
        simp only [hcapture, hexpiry, hport] at h
        cases h
        rfl

/-- An event of the outside but RESET writes no session but the one it is about. -/
theorem perform_session {s t : State} {x : Sid} {e : Event} {ag : List Event} (ha : s.agenda = e :: ag)
    (h : perform e (setAgenda ag s) = .next t) (hr : nextIsReset s = false) (hx : nextSession s ≠ some x) :
    t.session x = s.session x := by
  cases e with
  | port p ws =>
    simp only [nextSession, ha] at hx
    exact takeCommand_session (s := setAgenda ag s) h hx
  | serve b c =>
    simp only [nextSession, ha] at hx
    obtain ⟨-, h⟩ := whenRunning_next _ h
    split at h <;> cases h
    exact serveCapture_session (s := setAgenda ag s) hx
  | foreign call =>
    simp only [perform] at h
    split at h <;> cases h
    rfl
  | capture b c d r => cases h; rfl
  | strayFlag b c => cases h; rfl
  | program b room off => cases h; rfl
  | reset => simp [nextIsReset, ha] at hr

/-- Settles O45: `nextSession` follows the order in which a step looks for what comes next, and each of those writes its
own session alone. -/
theorem stepChangesAtMostOneSession : Obligations.StepChangesAtMostOneSession := by
  intro s t h hr x hx
  rw [step_eq] at h
  split at h
  · exact settle_session ‹_› h hx
  · exact perform_session ‹_› h hr hx

end Sys2Proof.Machine
end

section
/-! What holds after RESET, and so at the start (spec 10_state.md R50, 70_reset_and_hazards.md R250, R252). -/

namespace Sys2Proof.Machine

/-- The machine starts as RESET leaves it. -/
theorem resetBlock_reset : resetBlock State.reset = State.reset := rfl

theorem resetValues_resetBlock (s : State) : ResetValues (resetBlock s) where
  owner := resetBlock_ownerAt s
  offset := resetBlock_offsetAt s
  session := resetBlock_session s
  fault := rfl
  rx p := by cases p <;> rfl

theorem collabResetValues_resetBlock (s : State) : CollabResetValues (resetBlock s) where
  chan := resetBlock_chan s
  resident b := by rw [resetBlock_bankEnv]
  lineEn b := by rw [resetBlock_bankEnv]

/-- Settles O9: a RESET step is `resetBlock` with the event taken, and the machine starts in such a state. -/
theorem resetGivesResetValues : Obligations.ResetGivesResetValues := by
  refine ⟨?_, ?_, fun s ag hag => ?_⟩
  · rw [← resetBlock_reset]
    exact resetValues_resetBlock State.reset
  · rw [← resetBlock_reset]
    exact collabResetValues_resetBlock State.reset
  · refine ⟨_, step_reset hag, resetValues_resetBlock _, collabResetValues_resetBlock _, fun b => ?_, rfl, rfl, rfl, rfl,
      rfl⟩
    rw [resetBlock_bankEnv]
    exact ⟨rfl, rfl⟩

/-- Settles O48: the reference configuration is well formed, and nothing is to come. -/
theorem blockInvAtReset : Obligations.BlockInvAtReset := by
  unfold Obligations.BlockInvAtReset
  rw [← resetBlock_reset]
  exact blockInv_resetBlock (by decide) nofun

/-- Settles O52: the reference configuration is closed. -/
theorem closedInvAtReset : Obligations.ClosedInvAtReset := by
  unfold Obligations.ClosedInvAtReset
  rw [← resetBlock_reset]
  exact closedInv_resetBlock rfl

end Sys2Proof.Machine
end

section
/-! The words at a port (spec 20_memory.md R64, 30_encoding.md R84): a whole command is run, a command partly received
waits, and at the HOST port it holds the block. -/

namespace Sys2Proof.Machine

/-- Fewer extension words than the head word asks for are no command yet (R84). -/
theorem decode_incomplete {w : Word} {ext : List Word} (hl : ext.length < extensionWords w) :
    decode (w :: ext) = .incomplete := if_pos hl

/-- Words that arrive join those waiting at their port, and a command is taken from them. -/
theorem step_port {s : State} {p : Port} {ws : List Word} {ag : List Event} (ha : s.agenda = .port p ws :: ag) :
    step s = takeCommand p (s.rxAt p ++ ws) (setAgenda ag s) := by
  simp only [step_eq, ha, perform, setAgenda_rxAt]

/-- While a HOST command is partly received, words at another port wait whatever they hold (R64). -/
theorem takeCommand_held {p : Port} {ws : List Word} {s : State} (hr : s.fault.halted = false) (hp : p ≠ .host)
    (hw : hostWaiting s = true) : takeCommand p ws s = .next (setRx p ws s) :=
  (whenRunning_running s hr).trans (if_pos ⟨hp, hw⟩)

/-- Words that make no whole command wait, whether or not the HOST port holds the block (R64). -/
theorem takeCommand_incomplete {p : Port} {ws : List Word} {s : State} (hr : s.fault.halted = false)
    (hd : decode ws = .incomplete) : takeCommand p ws s = .next (setRx p ws s) := by
  by_cases hp : p = .host
  · rw [takeCommand_idle hr (.inl hp), hd]
  · cases hw : hostWaiting s with
    | false => rw [takeCommand_idle hr (.inr hw), hd]
    | true => exact takeCommand_held hr hp hw

/-- A block held by the HOST port takes no step of its own (R64). -/
theorem step_settle_held {s : State} (hr : s.fault.halted = false) (hw : hostWaiting s = true) (ha : s.agenda = []) :
    step s = .next s := by
  rw [step_eq, ha]
  exact (whenRunning_running s hr).trans (if_pos hw)

/-- A block held by the HOST port serves no capture (R64). -/
theorem step_serve_held {s : State} {b : Bank} {c : Chan} {ag : List Event} (hr : s.fault.halted = false)
    (hw : hostWaiting s = true) (ha : s.agenda = .serve b c :: ag) : step s = .refused .notEnabled := by
  have hn : ¬(pending b c (setAgenda ag s) = true ∧ hostWaiting (setAgenda ag s) = false) :=
    fun h => Bool.false_ne_true (h.2.symm.trans hw)
  rw [step_eq, ha]
  exact (whenRunning_running (setAgenda ag s) hr).trans (if_neg hn)

/-- Settles O7: words that stop inside a command decode to nothing yet, and those at the HOST port are what
`hostWaiting` sees. -/
theorem incompleteCommandWaits : Obligations.IncompleteCommandWaits := by
  refine ⟨fun s p ws w ext ag hr ha he hl => ?_, fun s w ext hr he hl => ?_⟩
  · rw [step_port ha, he]
    exact takeCommand_incomplete (s := setAgenda ag s) hr (decode_incomplete hl)
  · have hw : hostWaiting s = true := (hostWaiting_iff s).mpr ⟨w, ext, he, hl⟩
    refine ⟨step_settle_held hr hw, fun b c ag => step_serve_held hr hw, fun p ws ag hp ha => ?_⟩
    rw [step_port ha]
    exact takeCommand_held (s := setAgenda ag s) hr hp hw

/-- Settles O6: taking the event from the agenda leaves the block running and the HOST port as it was. -/
theorem stepRunsDecodedCommand : Obligations.StepRunsDecodedCommand := by
  intro s p ws rest i ag hr ha hidle hd
  have hfree : p = .host ∨ hostWaiting (setAgenda ag s) = false := hidle.imp_right hostWaiting_false
  rw [step_port ha, takeCommand_idle (s := setAgenda ag s) hr hfree, hd]

end Sys2Proof.Machine
end

section
/-! The encoder and the decoder are inverse to each other (spec 30_encoding.md R80 to R91, R102). -/

namespace Sys2Proof

/-! ## What the encoder writes is read back -/

/-- The words of an instruction are a head word and the extension words it asks for (R80), and they are read as that
instruction (R82 to R90). -/
theorem decodeHead_encode (i : Instr) :
    ∃ w ext, encode i = w :: ext ∧ ext.length = extensionWords w ∧ decodeHead w ext = .ok i := by
  cases i with
  | construct sid pin t =>
    refine ⟨_, _, rfl, (extensionWords_headS sid).1.symm, ?_⟩
    rw [decodeHead_construct, join64_lo64_hi64]
  | init sid => exact ⟨_, _, rfl, (extensionWords_headS sid).2.1.symm, decodeHead_init sid⟩
  | getdir sid => exact ⟨_, _, rfl, (extensionWords_headS sid).2.2.1.symm, decodeHead_getdir sid⟩
  | getper sid => exact ⟨_, _, rfl, (extensionWords_headS sid).2.2.2.1.symm, decodeHead_getper sid⟩
  | getbank sid => exact ⟨_, _, rfl, (extensionWords_headS sid).2.2.2.2.1.symm, decodeHead_getbank sid⟩
  | alloc sid => exact ⟨_, _, rfl, (extensionWords_headA sid 0).1.symm, decodeHead_alloc sid⟩
  | allocP sid b => exact ⟨_, _, rfl, (extensionWords_headA sid b).2.symm, decodeHead_allocP sid b⟩
  | resolve b c => exact ⟨_, _, rfl, (extensionWords_headC b c).1.symm, decodeHead_resolve b c⟩
  | bankuse b => exact ⟨_, _, rfl, (extensionWords_headB b).1.symm, decodeHead_bankuse b⟩
  | progoff b => exact ⟨_, _, rfl, (extensionWords_headB b).2.symm, decodeHead_progoff b⟩
  | evCapture b c d r => exact ⟨_, _, rfl, (extensionWords_headC b c).2.symm, decodeHead_evCapture b c d r⟩
  | evWdexp sid => exact ⟨_, _, rfl, (extensionWords_headS sid).2.2.2.2.2.symm, decodeHead_evWdexp sid⟩
  | evTime t =>
    refine ⟨_, _, rfl, rfl, ?_⟩
    rw [decodeHead_evTime, join64_lo64_hi64]

/-- Settles O1: the length comes from the head word alone, so what follows is not read. -/
theorem decodeOfEncode : Obligations.DecodeOfEncode := by
  intro i rest
  obtain ⟨w, ext, he, hl, hd⟩ := decodeHead_encode i
  rw [he]
  exact decode_command hl hd rest

/-! ## A head word is its row's fixed bits and its operand fields -/

/-- Two head words of one row are equal when they agree on the operand fields, which hold every bit the row's mask
leaves out. A format with one field gives it twice. -/
theorem eq_of_and_eq_of_fields {w v m : Word} {a l b k : Nat}
    (hfree : ∀ n < 32, m.getLsbD n = false → (a ≤ n ∧ n < a + l) ∨ (b ≤ n ∧ n < b + k))
    (hm : w &&& m = v &&& m) (ha : w.extractLsb' a l = v.extractLsb' a l)
    (hb : w.extractLsb' b k = v.extractLsb' b k) : w = v := by
  have bit : ∀ {lo len n : Nat}, w.extractLsb' lo len = v.extractLsb' lo len → lo ≤ n → n < lo + len →
      w.getLsbD n = v.getLsbD n := by
    intro lo len n h hlo hhi
    have := congrArg (BitVec.getLsbD · (n - lo)) h
    simpa [BitVec.getLsbD_extractLsb', show n - lo < len by omega, Nat.add_sub_cancel' hlo] using this
  refine BitVec.eq_of_getLsbD_eq fun n hn => ?_
  cases hmn : m.getLsbD n with
  | true => simpa [BitVec.getLsbD_and, hmn] using congrArg (BitVec.getLsbD · n) hm
  | false =>
    obtain ⟨hlo, hhi⟩ | ⟨hlo, hhi⟩ := hfree n hn hmn
    · exact bit ha hlo hhi
    · exact bit hb hlo hhi

theorem headS_fields : ∀ (opc : BitVec 4) (sid : Sid),
    headS opc sid &&& 0xF0FFFFFF = headS opc 0 ∧ sidField (headS opc sid) = sid := by decide

theorem headA_fields : ∀ (sid : Sid) (b : Bank), headA sid 1 b &&& 0xF0FFFFFE = 0x80000002 ∧
    sidField (headA sid 1 b) = sid ∧ bankField (headA sid 1 b) = b := by decide

theorem headB_fields : ∀ (opc : BitVec 4) (b : Bank),
    headB opc b &&& 0xFFFFFFFE = headB opc 0 ∧ bankField (headB opc b) = b := by decide

theorem headC_fields : ∀ (opc : BitVec 4) (b : Bank) (c : Chan), headC opc b c &&& 0xFFFFFFF8 = headC opc 0 0 ∧
    slotBankField (headC opc b c) = b ∧ chanField (headC opc b c) = c := by decide

/-- Formats S and SX: the mask checks all but the handle (R82, R83). -/
theorem headS_of_and_eq {w : Word} {opc : BitVec 4} (h : w &&& 0xF0FFFFFF = headS opc 0) :
    headS opc (sidField w) = w := by
  obtain ⟨hm, hs⟩ := headS_fields opc (sidField w)
  exact eq_of_and_eq_of_fields (by decide) (hm.trans h.symm) hs hs

/-- Format A without a preferred bank: the head word of format S with `OPC = 0x8` (R85). -/
theorem headA_of_and_eq {w : Word} (h : w &&& 0xF0FFFFFF = 0x80000000) : headA (sidField w) 0 0 = w := by
  have hAS : ∀ sid, headA sid 0 0 = headS 0x8 sid := by decide
  rw [hAS]
  exact headS_of_and_eq h

/-- Format A with a preferred bank: the mask checks all but the handle and the bank (R85). -/
theorem headA_pref_of_and_eq {w : Word} (h : w &&& 0xF0FFFFFE = 0x80000002) :
    headA (sidField w) 1 (bankField w) = w := by
  obtain ⟨hm, hs, hb⟩ := headA_fields (sidField w) (bankField w)
  exact eq_of_and_eq_of_fields (by decide) (hm.trans h.symm) hs hb

/-- Format B: the mask checks all but the bank (R86). -/
theorem headB_of_and_eq {w : Word} {opc : BitVec 4} (h : w &&& 0xFFFFFFFE = headB opc 0) :
    headB opc (bankField w) = w := by
  obtain ⟨hm, hb⟩ := headB_fields opc (bankField w)
  exact eq_of_and_eq_of_fields (by decide) (hm.trans h.symm) hb hb

/-- Formats C and EC: the mask checks all but the bank and the channel (R87, R88). -/
theorem headC_of_and_eq {w : Word} {opc : BitVec 4} (h : w &&& 0xFFFFFFF8 = headC opc 0 0) :
    headC opc (slotBankField w) (chanField w) = w := by
  obtain ⟨hm, hb, hc⟩ := headC_fields opc (slotBankField w) (chanField w)
  exact eq_of_and_eq_of_fields (by decide) (hm.trans h.symm) hb hc

/-! ## What the decoder accepts is what the encoder writes -/

/-- A head word that asks for no extension words is the whole command. -/
theorem eq_cons_of_bare {h w : Word} {ext : List Word} (hw : h = w) (h0 : extensionWords h = 0)
    (hl : ext.length = extensionWords w) : [h] = w :: ext := by
  subst hw
  rw [List.length_eq_zero_iff.mp (hl.trans h0)]

/-- "`w AND mask = match`" (R90). -/
theorem Row.and_mask_eq_pat {r : Row} {w : Word} (h : r.selects w = true) : w &&& r.mask = r.pat := beq_iff_eq.mp h

/-- The map row by row: the operation of a row is written with the head word that selects the row and the extension
words it was read with (R90). -/
theorem encode_assemble {r : Row} {w : Word} {ext : List Word} (hr : r ∈ opcodeTable) (hsel : r.selects w = true)
    (hl : ext.length = extensionWords w) : encode (assemble r.op w ext) = w :: ext := by
  have hs := Row.and_mask_eq_pat hsel
  simp only [opcodeTable, List.cons_append, List.nil_append, List.mem_cons, List.not_mem_nil, or_false] at hr
  obtain rfl | rfl | rfl | rfl | rfl | rfl | rfl | rfl | rfl | rfl | rfl | rfl | rfl := hr
  · have hw : headS 0x1 (sidField w) = w := headS_of_and_eq hs
    have h3 : extensionWords w = 3 := hw ▸ (extensionWords_headS _).1
    match ext, hl.trans h3 with
    | [pin, lo, hi], _ =>
      show [headS 0x1 (sidField w), pin, lo64 (join64 lo hi), hi64 (join64 lo hi)] = _
      rw [hw, lo64_join64, hi64_join64]
  · exact eq_cons_of_bare (headS_of_and_eq (opc := 0x2) hs) (extensionWords_headS _).2.1 hl
  · exact eq_cons_of_bare (headS_of_and_eq (opc := 0x3) hs) (extensionWords_headS _).2.2.1 hl
  · exact eq_cons_of_bare (headS_of_and_eq (opc := 0x4) hs) (extensionWords_headS _).2.2.2.1 hl
  · exact eq_cons_of_bare (headS_of_and_eq (opc := 0x5) hs) (extensionWords_headS _).2.2.2.2.1 hl
  · exact eq_cons_of_bare (headA_of_and_eq hs) (extensionWords_headA _ 0).1 hl
  · exact eq_cons_of_bare (headA_pref_of_and_eq hs) (extensionWords_headA _ _).2 hl
  · exact eq_cons_of_bare (headC_of_and_eq (opc := 0x9) hs) (extensionWords_headC _ _).1 hl
  · exact eq_cons_of_bare (headB_of_and_eq (opc := 0xA) hs) (extensionWords_headB _).1 hl
  · exact eq_cons_of_bare (headB_of_and_eq (opc := 0xB) hs) (extensionWords_headB _).2 hl
  · have hw : headC 0xC (slotBankField w) (chanField w) = w := headC_of_and_eq hs
    have h2 : extensionWords w = 2 := hw ▸ (extensionWords_headC _ _).2
    match ext, hl.trans h2 with
    | [d, r], _ =>
      show [headC 0xC (slotBankField w) (chanField w), d, r] = _
      rw [hw]
  · exact eq_cons_of_bare (headS_of_and_eq (opc := 0xD) hs) (extensionWords_headS _).2.2.2.2.2 hl
  · obtain rfl : w = 0xE0000000 := BitVec.and_allOnes.symm.trans hs
    match ext, hl with
    | [lo, hi], _ =>
      show [0xE0000000, lo64 (join64 lo hi), hi64 (join64 lo hi)] = _
      rw [lo64_join64, hi64_join64]

/-- A head word with its extension words is read as an instruction only where a row selects it, and then they are that
instruction's words (R90, R91). -/
theorem encode_of_decodeHead {w : Word} {ext : List Word} {i : Instr} (hl : ext.length = extensionWords w)
    (hd : decodeHead w ext = .ok i) : encode i = w :: ext := by
  unfold decodeHead at hd
  split at hd <;> cases hd
  rename_i r hfind
  exact encode_assemble (List.mem_of_find?_eq_some hfind) (List.find?_some hfind) hl

/-- A command read from a port is a head word with the extension words it asks for, and the words after them (R80). -/
theorem exists_of_decode_eq_command {ws rest : List Word} {i : Instr} (h : decode ws = .command i rest) :
    ∃ w ext, ws = w :: (ext ++ rest) ∧ ext.length = extensionWords w ∧ decodeHead w ext = .ok i := by
  cases ws with
  | nil => cases h
  | cons w more =>
    by_cases hlen : more.length < extensionWords w
    · rw [Machine.decode_incomplete hlen] at h
      cases h
    · cases hd : decodeHead w (more.take (extensionWords w)) with
      | error why => simp [decode, hlen, hd] at h
      | ok j =>
        simp only [decode, if_neg hlen, hd] at h
        cases h
        exact ⟨w, _, by rw [List.take_append_drop], List.length_take_of_le (Nat.le_of_not_lt hlen), hd⟩

/-- Settles O2: the row that selects the head word fixes every bit but the operand fields. -/
theorem encodeOfDecode : Obligations.EncodeOfDecode := by
  intro ws i rest h
  obtain ⟨w, ext, rfl, hl, hd⟩ := exists_of_decode_eq_command h
  rw [encode_of_decodeHead hl hd]
  rfl

/-! ## The rows of the opcode map -/

/-- Two rows that ask for the same bits where both masks look are one row (R90). -/
theorem eq_of_pat_and_mask_eq : ∀ r ∈ opcodeTable, ∀ r' ∈ opcodeTable,
    r.pat &&& r'.mask = r'.pat &&& r.mask → r = r' := by decide

/-- Settles O3: a word that selects two rows has, where both masks look, the bits both ask for. -/
theorem opcodeRowsDisjoint : Obligations.OpcodeRowsDisjoint := by
  intro w r r' hr hr' hs hs'
  refine eq_of_pat_and_mask_eq r hr r' hr' ?_
  rw [← Row.and_mask_eq_pat hs, ← Row.and_mask_eq_pat hs', BitVec.and_assoc, BitVec.and_assoc, BitVec.and_comm r.mask]

/-- Settles O5: the decoder evaluates on each of these closed word lists. -/
theorem workedEncodingsDecode : Obligations.WorkedEncodingsDecode := by
  unfold Obligations.WorkedEncodingsDecode
  decide

end Sys2Proof
end

section
/-! What the block refuses before any state is looked at: an illegal head word, an operation on a port that does not
accept it, and an expiry that is not enabled (spec 30_encoding.md R92 to R94, R97; 60_exceptions.md R238). -/

namespace Sys2Proof.Machine

/-! ## Illegal head words (R84, R93) -/

/-- No head word of formats S and SX, with an opcode of those formats, is illegal (R82, R83). -/
theorem not_illegalHead_headS (sid : Sid) : ∀ opc ∈ ([0x1, 0x2, 0x3, 0x4, 0x5, 0xD] : List (BitVec 4)),
    ¬illegalHead (headS opc sid) := by
  unfold illegalHead
  revert sid
  decide

/-- Nor one of format A without a preferred bank (R85). -/
theorem not_illegalHead_headA (sid : Sid) : ¬illegalHead (headA sid 0 0) := by
  unfold illegalHead
  revert sid
  decide

/-- Nor one of format A with a preferred bank (R85). -/
theorem not_illegalHead_headA_pref (sid : Sid) (b : Bank) : ¬illegalHead (headA sid 1 b) := by
  unfold illegalHead
  revert sid b
  decide

/-- Nor one of format B (R86). -/
theorem not_illegalHead_headB (b : Bank) : ¬illegalHead (headB 0xA b) ∧ ¬illegalHead (headB 0xB b) := by
  unfold illegalHead
  revert b
  decide

/-- Nor one of formats C and EC (R87, R88). -/
theorem not_illegalHead_headC (b : Bank) (c : Chan) :
    ¬illegalHead (headC 0x9 b c) ∧ ¬illegalHead (headC 0xC b c) := by
  unfold illegalHead
  revert b c
  decide

/-- Nor the head word of format T (R88). -/
theorem not_illegalHead_evTime : ¬illegalHead 0xE0000000 := by
  unfold illegalHead
  decide

/-- The encoder writes no illegal head word. -/
theorem not_illegalHead_of_encode {i : Instr} {w : Word} {ext : List Word} (he : encode i = w :: ext) :
    ¬illegalHead w := by
  obtain rfl : (encode i).headD 0 = w := by rw [he]; rfl
  cases i with
  | construct sid => exact not_illegalHead_headS sid 0x1 (by decide)
  | init sid => exact not_illegalHead_headS sid 0x2 (by decide)
  | getdir sid => exact not_illegalHead_headS sid 0x3 (by decide)
  | getper sid => exact not_illegalHead_headS sid 0x4 (by decide)
  | getbank sid => exact not_illegalHead_headS sid 0x5 (by decide)
  | alloc sid => exact not_illegalHead_headA sid
  | allocP sid b => exact not_illegalHead_headA_pref sid b
  | resolve b c => exact (not_illegalHead_headC b c).1
  | bankuse b => exact (not_illegalHead_headB b).1
  | progoff b => exact (not_illegalHead_headB b).2
  | evCapture b c => exact (not_illegalHead_headC b c).2
  | evWdexp sid => exact not_illegalHead_headS sid 0xD (by decide)
  | evTime => exact not_illegalHead_evTime

/-- An illegal head word is read as an illegal command and its extension words are dropped with it (R84): what is read
as an instruction is written by the encoder. -/
theorem decode_illegalHead {w : Word} {ext : List Word} (hill : illegalHead w) (hl : ext.length = extensionWords w)
    (rest : List Word) : ∃ why, decode (w :: (ext ++ rest)) = .illegal why rest := by
  cases hd : decodeHead w ext with
  | ok i => exact absurd hill (not_illegalHead_of_encode (encode_of_decodeHead hl hd))
  | error why => exact ⟨why, decode_illegal hl hd rest⟩

/-- Settles O4: an illegal head word decodes to an illegal command, which a block that waits for no HOST command
refuses. -/
theorem illegalHeadsRefused : Obligations.IllegalHeadsRefused := by
  refine ⟨.inl (by decide), .inl (by decide), fun s p w ext rest ag hr ha hrx hidle hill hl => ?_⟩
  obtain ⟨why, hd⟩ := decode_illegalHead hill hl rest
  rw [step_port ha, hrx, List.nil_append,
    takeCommand_idle (s := setAgenda ag s) hr (.inr (hostWaiting_false hidle)), hd]
  rfl

/-! ## The wrong port (R92) -/

section
variable {s : State} (hr : s.fault.halted = false)
include hr

theorem sessionCommand_wrongPort {sid : Sid} {allowed : List Fsm} {k : State} (hp : s.port ≠ .host) :
    sessionCommand sid allowed s k = .next (refuse .port s) :=
  (whenRunning_running s hr).trans (if_pos hp)

theorem allocCommand_wrongPort {sid : Sid} {pref : Option Bank} (hp : s.port ≠ .arb) :
    allocCommand sid pref s = .next (refuse .port s) :=
  (whenRunning_running s hr).trans (if_pos hp)

theorem queryCommand_wrongPort {answer : Word} (hp : s.port = .stimulus) :
    queryCommand answer s = .next (refuse .port s) :=
  (whenRunning_running s hr).trans (if_pos hp)

theorem stimulusCommand_wrongPort {k : Host.Outcome State Fault Refusal} (hp : s.port ≠ .stimulus) :
    stimulusCommand s k = .next (refuse .port s) :=
  (whenRunning_running s hr).trans (if_pos hp)

end

/-- The one port that neither HOST nor ARB is (R92). -/
theorem eq_stimulus_of_not_host_arb {p : Port} (h : (p == .host || p == .arb) = false) : p = .stimulus := by
  cases p with
  | host => cases h
  | arb => cases h
  | stimulus => rfl

/-- Settles O12: each of the four kinds of command looks at the port before anything else. -/
theorem wrongPortRefused : Obligations.WrongPortRefused := by
  intro i s hr hp
  cases i with
  | construct | init | getdir | getper | getbank => exact sessionCommand_wrongPort hr (beq_eq_false_iff_ne.mp hp)
  | alloc | allocP => exact allocCommand_wrongPort hr (beq_eq_false_iff_ne.mp hp)
  | resolve | bankuse | progoff => exact queryCommand_wrongPort hr (eq_stimulus_of_not_host_arb hp)
  | evCapture | evWdexp | evTime => exact stimulusCommand_wrongPort hr (beq_eq_false_iff_ne.mp hp)

/-! ## An expiry that is not enabled (R94, R238) -/

theorem captureReadyAt_iff (sid : Sid) (d : Word64) (s : State) :
    captureReadyAt sid d s = true ↔ pending (s.session sid).bank (s.session sid).channel s = true ∧
      (s.chan (slot (s.session sid).bank (s.session sid).channel)).flagTime = d := by
  simp [captureReadyAt]

/-- When an expiry is enabled (R238, R234(c)). -/
theorem expiryEnabled_iff (sid : Sid) (s : State) :
    expiryEnabled sid s = true ↔ ∃ d, (s.session sid).wd = .pending d ∧ sid.toNat < s.cfg.nSess ∧ d ≤ s.timeUs ∧
      captureReadyAt sid d s = false := by
  unfold expiryEnabled
  cases (s.session sid).wd <;> simp [and_assoc]

/-- In the stimulus stream EV_WDEXP makes the test program ill-formed where the expiry is not enabled (R94). -/
theorem execEvWdexp_not_enabled {sid : Sid} {s : State} (hr : s.fault.halted = false) (hp : s.port = .stimulus)
    (he : ¬expiryEnabled sid s = true) : execEvWdexp sid s = .refused .stimulusIllFormed :=
  (stimulusCommand_ready hr hp).trans (if_neg he)

/-- Settles O38: each of the four conditions contradicts one that an enabled expiry needs. -/
theorem expiryNotEnabledIsRejected : Obligations.ExpiryNotEnabledIsRejected := by
  intro s sid hr hp h
  refine execEvWdexp_not_enabled hr hp fun he => ?_
  obtain ⟨d, hwd, hexists, hdue, hready⟩ := (expiryEnabled_iff sid s).mp he
  obtain hidle | hbeyond | ⟨d', hwd', hearly⟩ | ⟨d', hwd', hpending, hflag⟩ := h
  · rw [hidle] at hwd
    cases hwd
  · exact Nat.not_lt.mpr hbeyond hexists
  · obtain rfl : d' = d := Watchdog.pending.inj (hwd'.symm.trans hwd)
    exact BitVec.not_le.mpr hearly hdue
  · obtain rfl : d' = d := Watchdog.pending.inj (hwd'.symm.trans hwd)
    rw [(captureReadyAt_iff sid d' s).mpr ⟨hpending, hflag⟩] at hready
    cases hready

end Sys2Proof.Machine
end

section
/-! The program is loaded once into each bank in use and never into another (spec 40_arbiter.md R112, R125(c);
43_collaborator.md R195): the one operation that calls `program_load` is the one that brings a bank into use. -/

namespace Sys2Proof.Machine

theorem loadCount_congr {s t : State} (h : t.calls = s.calls) (b : Bank) : loadCount b t = loadCount b s := by
  rw [loadCount, h, loadCount]

theorem loadCount_respond (ws : List Word) (s : State) (b : Bank) : loadCount b (respond ws s) = loadCount b s := rfl

/-- The invariant depends on the load counts and the owners alone. -/
theorem LoadInv.congr {s t : State} (h : LoadInv s) (hl : ∀ b, loadCount b t = loadCount b s)
    (ho : t.owner = s.owner) : LoadInv t :=
  fun b => by rw [hl, h, bankInUse_congr ho]

/-- No call and no claim: nothing the invariant speaks of has changed. -/
theorem LoadInv.sameCalls {s t : State} (h : LoadInv s) (hc : t.calls = s.calls) (ho : t.owner = s.owner) :
    LoadInv t :=
  h.congr (loadCount_congr hc) ho

theorem LoadInv.asked {s t : State} (h : LoadInv s) (ha : Asked s t) : LoadInv t :=
  h.congr ha.loads ha.owner

theorem LoadInv.served {sid : Sid} {i : Slot} {s t : State} (h : LoadInv s) (hv : Served sid i s t) : LoadInv t :=
  h.congr hv.loads hv.owner

theorem LoadInv.respond {s : State} (h : LoadInv s) (ws : List Word) : LoadInv (respond ws s) :=
  h.congr (loadCount_respond ws s) rfl

/-- What the collaborator does of its own calls no `program_load`. -/
theorem LoadInv.setCollab {s : State} (h : LoadInv s) (k : Collab) : LoadInv (setCollab k s) :=
  h.sameCalls rfl rfl

/-- A reservation alone loads no program (R193). -/
theorem LoadInv.reserveAsked {s : State} (h : LoadInv s) (b : Bank) : LoadInv (reserveAsked b s) := by
  obtain ⟨-, owner, -, -, -, -, -, -, -, -, -, loads⟩ := reserveAsked_keeps b s
  exact h.congr loads owner

/-- Claiming a slot loads the program exactly where it brings the bank into use (R117). -/
theorem LoadInv.claimed {s : State} {b : Bank} {c : Chan} (sid : Sid) (h : LoadInv s)
    (free : s.ownerAt (slot b c) = none) : LoadInv (claimed b c sid s) := by
  intro b'
  rw [claimed_loadCount, h, claimed_bankInUse free]
  by_cases hb : b' = b
  · subst hb
    cases bankInUse b' s <;> simp
  · simp [hb]

theorem LoadInv.initSlot {s : State} (h : LoadInv s) (sid : Sid) (b : Bank) (c : Chan) (off : Word) :
    LoadInv (initSlot sid b c off s) :=
  h.congr (initSlot_loadCount sid b c off s) (initSlot_keeps sid b c off s).2.1

theorem Effect.loadInv {s t : State} (h : LoadInv s) (e : Effect s t) : LoadInv t := by
  cases e with
  | refused | answered | constructed | timed => exact h.sameCalls rfl rfl
  | allocFailed s0 ws asked => exact (h.asked asked).respond ws
  | arbitration s0 b n asked => exact ((h.asked asked).reserveAsked b).sameCalls rfl rfl
  | allocated s0 b c sid ws _ asked _ free =>
    rw [← asked.ownerAt] at free
    exact ((h.asked asked).claimed sid free).respond ws
  | initialized s0 b c sid _ _ asked _ free =>
    rw [← asked.ownerAt] at free
    exact (((h.asked asked).claimed sid free).initSlot sid b c _).respond [0]
  | captured => exact h.setCollab _
  | capturedServed b c d r sid => exact (h.setCollab _).served (onCapture_served sid _)
  | capturedUnresolved => exact h.sameCalls rfl rfl
  | expired sid => exact h.served (onExpiry_served sid 0 s)

/-- RESET forgets the calls with the owners (R50; notes/assumptions/12.md). -/
theorem loadInv_resetBlock (s : State) : LoadInv (resetBlock s) := by
  intro b
  simp [loadCount, bankInUse]

theorem LoadInv.prepared {s u : State} (h : LoadInv s) (hu : Prepared s u) : LoadInv u :=
  h.sameCalls hu.calls hu.owner

theorem StepEffect.loadInv {s t : State} (h : LoadInv s) (e : StepEffect s t) : LoadInv t := by
  cases e with
  | waited _ prepared => exact h.prepared prepared
  | ran u _ prepared _ _ _ effect => exact effect.loadInv (h.prepared prepared)
  | expired sid => exact h.served (onExpiry_served sid 0 s)
  | served u _ _ sid prepared => exact (h.prepared prepared).served (onCapture_served sid u)
  | unresolved u _ _ prepared => exact (h.prepared prepared).sameCalls rfl rfl
  | environment u k prepared => exact (h.prepared prepared).setCollab k
  | reset u => exact loadInv_resetBlock u

/-- Settles O54: `program_load` is called where a slot is claimed in a bank not in use, and nowhere else. -/
theorem programIsLoadedOncePerBank : Obligations.ProgramIsLoadedOncePerBank := by
  refine ⟨?_, fun s t h hstep => (step_effect hstep).loadInv h⟩
  rw [← resetBlock_reset]
  exact loadInv_resetBlock State.reset

end Sys2Proof.Machine
end

section
/-! The outcomes of `allocate` (spec 40_arbiter.md R114 to R120): what it claims, that a failure writes nothing, and
which slot it gives in the closed system. -/

namespace Sys2Proof.Machine

/-! ## The two outcomes, in terms of `claimed` -/

/-- A successful `allocate` has claimed one free channel after asks that changed nothing (R118). -/
theorem allocate_ok {sid : Sid} {pref : Option Bank} {s s1 : State} {b : Bank} {c : Chan} {off : Word}
    (h : allocate sid pref s = .ok b c off s1) :
    ∃ s0, Asked s s0 ∧ reserveAnswer b s0 = some c.toNat ∧ s.ownerAt (slot b c) = none ∧
      (bankInUse b s = false → (s.bankEnv b).room = true) ∧ off = s1.offsetAt b ∧ s1 = claimed b c sid s0 := by
  rcases allocate_spec sid pref s with
    ⟨s0, b', c', asked, answer, free, room, e⟩ | ⟨s0, -, e⟩ | ⟨s0, b', n, -, -, -, e⟩ <;>
    rw [h] at e <;> cases e
  exact ⟨s0, asked, answer, free, room, rfl, rfl⟩

/-- A failing `allocate` has asked, and nothing more (R120). -/
theorem allocate_fail {sid : Sid} {pref : Option Bank} {s s1 : State} (h : allocate sid pref s = .fail s1) :
    Asked s s1 := by
  rcases allocate_spec sid pref s with ⟨s0, b', c', -, -, -, -, e⟩ | ⟨s0, asked, e⟩ | ⟨s0, b', n, -, -, -, e⟩ <;>
    rw [h] at e <;> cases e
  exact asked

/-- Settles O18: what was claimed after asks that changed nothing, field by field. -/
theorem allocateClaimsOneFreeSlot : Obligations.AllocateClaimsOneFreeSlot := by
  intro s s1 sid pref b c off h
  obtain ⟨s0, asked, answer, free, room, hoff, rfl⟩ := allocate_ok h
  obtain ⟨cfg, sessions, fault, timeUs, port, rx, agenda, responses⟩ := claimed_keeps b c sid s0
  refine ⟨free, fun i => ?_, hoff, fun b' => ?_, room, fun b' => ?_, fun i => ?_, fun b' => ?_,
    sessions.trans asked.sessions, fault.trans asked.fault, timeUs.trans asked.timeUs, responses.trans asked.responses,
    cfg.trans asked.cfg, port.trans asked.port, rx.trans asked.rx, agenda.trans asked.agenda⟩
  · rw [claimed_ownerAt, asked.ownerAt]
  · rw [claimed_offsetAt, asked.bankInUse, asked.bankEnv, asked.offsetAt]
  · rw [claimed_loadCount, asked.bankInUse, asked.loads]
  · rw [claimed_chan sid answer, asked.chan]
  · rw [claimed_bankEnv, asked.bankInUse, asked.bankEnv]

/-- Settles O19: asks that reserve no channel write nothing. -/
theorem allocateFailureWritesNothing : Obligations.AllocateFailureWritesNothing := by
  intro s s1 sid pref h
  have asked := allocate_fail h
  exact ⟨asked.owner, asked.offset, asked.loads, asked.chan, asked.bankEnv, asked.sessions, asked.fault, asked.timeUs,
    asked.responses, asked.cfg, asked.port, asked.rx, asked.agenda⟩

/-! ## The policy in the closed system (R118, R193) -/

theorem allocate_preferred {pref : Option Bank} {s : State} {p : Bank} (h : preferred pref s = some p) (sid : Sid) :
    allocate sid pref s = allocateFrom p sid s := by
  rw [allocate, h]

theorem allocate_first {pref : Option Bank} {s : State} (h : preferred pref s = none) (sid : Sid) :
    allocate sid pref s = allocateFirst sid s := by
  rw [allocate, h]

/-- A full bank sends `allocate` to the other one (R118 item 2). -/
theorem allocateFrom_none {p : Bank} {s t : State} (h : reserve p s = .none t) (sid : Sid) :
    allocateFrom p sid s = allocateOther (otherBank p) sid t := by
  rw [allocateFrom, h]

/-- A first bank without room or with every channel taken sends `allocate` to the second (R118 item 3). -/
theorem allocateFirst_fail {sid : Sid} {s t : State} (h : fresh 0 sid s = .fail t) :
    allocateFirst sid s = fresh 1 sid t := by
  rw [allocateFirst, h]

theorem allocateOther_fresh {b : Bank} {s : State} (hu : bankInUse b s = false) (sid : Sid) :
    allocateOther b sid s = fresh b sid s := by
  rw [allocateOther, if_neg (by rw [hu]; decide)]

/-- A reservation writes no offset, so the channel is answered with the one its bank has (R113). -/
theorem claimResident_reserveAsked (b : Bank) (c : Chan) (sid : Sid) (s : State) :
    ∃ s1, claimResident b c sid (reserveAsked b s) = .ok b c (s.offsetAt b) s1 := by
  obtain ⟨-, -, offset, -⟩ := reserveAsked_keeps b s
  exact ⟨claim b c sid (reserveAsked b s), by simp only [claimResident, State.offsetAt, offset]⟩

section
variable {s : State} (h : ClosedInv s)
include h

theorem allocateFrom_closed_free {p : Bank} {c : Chan} {cs : List Chan} (hf : freeChans p s = c :: cs) (sid : Sid) :
    ∃ s1, allocateFrom p sid s = .ok p c (s.offsetAt p) s1 := by
  rw [allocateFrom, reserve_closed_some h hf]
  exact claimResident_reserveAsked p c sid s

theorem allocateOther_closed_free {b : Bank} {c : Chan} {cs : List Chan} (hu : bankInUse b s = true)
    (hf : freeChans b s = c :: cs) (sid : Sid) : ∃ s1, allocateOther b sid s = .ok b c (s.offsetAt b) s1 := by
  rw [allocateOther, if_pos hu, reserve_closed_some h hf]
  exact claimResident_reserveAsked b c sid s

theorem allocateOther_closed_full {b : Bank} (hu : bankInUse b s = true) (hf : freeChans b s = []) (sid : Sid) :
    allocateOther b sid s = .fail (reserveAsked b s) := by
  rw [allocateOther, if_pos hu, (reserve_closed_none h hf).2]

/-- What a full preferred bank leaves to the other one. -/
theorem allocateFrom_closed_full {p : Bank} (hf : freeChans p s = []) (sid : Sid) :
    Asked s (reserveAsked p s) ∧ allocateFrom p sid s = allocateOther (otherBank p) sid (reserveAsked p s) := by
  obtain ⟨answer, hr⟩ := reserve_closed_none h hf
  exact ⟨reserveAsked_none answer, allocateFrom_none hr sid⟩

/-- The preferred bank is full: the other one, reused when in use and else brought into use (R118 item 2). -/
theorem allocateFrom_closed_other {p : Bank} (hf : freeChans p s = []) (sid : Sid) :
    (bankInUse (otherBank p) s = true →
      (∀ c cs, freeChans (otherBank p) s = c :: cs →
        ∃ s1, allocateFrom p sid s = .ok (otherBank p) c (s.offsetAt (otherBank p)) s1) ∧
      (freeChans (otherBank p) s = [] → ∃ s1, allocateFrom p sid s = .fail s1)) ∧
    (bankInUse (otherBank p) s = false →
      ((s.bankEnv (otherBank p)).room = true →
        ∃ s1, allocateFrom p sid s = .ok (otherBank p) 0 (s.bankEnv (otherBank p)).loadOff s1) ∧
      ((s.bankEnv (otherBank p)).room = false → ∃ s1, allocateFrom p sid s = .fail s1)) := by
  obtain ⟨asked, e⟩ := allocateFrom_closed_full h hf sid
  have ht := h.asked asked
  rw [e, ← asked.bankInUse, ← freeChans_asked asked, ← asked.offsetAt, ← asked.bankEnv]
  refine ⟨fun hu => ⟨fun c cs hc => allocateOther_closed_free ht hu hc sid,
    fun hn => ⟨_, allocateOther_closed_full ht hu hn sid⟩⟩, fun hu => ?_⟩
  rw [allocateOther_fresh hu]
  obtain ⟨room, noRoom⟩ := fresh_closed sid ht hu
  exact ⟨room, fun hr => (noRoom hr).imp fun _ => And.left⟩

/-- No bank is in use: the first one with room (R118 item 3). -/
theorem allocateFirst_closed (hu : ∀ b, bankInUse b s = false) (sid : Sid) :
    ((s.bankEnv 0).room = true → ∃ s1, allocateFirst sid s = .ok 0 0 (s.bankEnv 0).loadOff s1) ∧
    ((s.bankEnv 0).room = false →
      ((s.bankEnv 1).room = true → ∃ s1, allocateFirst sid s = .ok 1 0 (s.bankEnv 1).loadOff s1) ∧
      ((s.bankEnv 1).room = false → ∃ s1, allocateFirst sid s = .fail s1)) := by
  obtain ⟨first, noRoom⟩ := fresh_closed sid h (hu 0)
  refine ⟨fun room0 => ?_, fun room0 => ?_⟩
  · obtain ⟨s1, e⟩ := first room0
    exact ⟨s1, by rw [allocateFirst, e]⟩
  · obtain ⟨s0, e, asked⟩ := noRoom room0
    obtain ⟨second, noRoom1⟩ := fresh_closed sid (h.asked asked) (b := 1) ((asked.bankInUse 1).trans (hu 1))
    rw [allocateFirst_fail e, ← asked.bankEnv]
    exact ⟨second, fun room1 => (noRoom1 room1).imp fun _ => And.left⟩

end

/-- Settles O20: a closed collaborator answers with the lowest free channel, so each item of the policy ends as its case
says. -/
theorem closedAllocationPolicy : Obligations.ClosedAllocationPolicy := by
  intro s sid pref h
  refine ⟨fun p hp => ?_, fun h0 h1 => ?_⟩
  · rw [allocate_preferred ((preferred_some_iff pref s p).2 hp)]
    exact ⟨fun c cs hc => allocateFrom_closed_free h hc sid, fun hf => allocateFrom_closed_other h hf sid⟩
  · have hp : preferred pref s = none := (preferred_none_iff pref s).2 ⟨h0, h1⟩
    rw [allocate_first hp]
    obtain ⟨first, noRoom⟩ := allocateFirst_closed h (preferred_none hp) sid
    exact ⟨first, fun room0 => (noRoom room0).1, fun room0 => (noRoom room0).2⟩

end Sys2Proof.Machine
end

section
/-! INIT in the closed system, slot after slot until all eight are owned (spec 40_arbiter.md R125(b), (d);
41_session_host.md R144, R145). -/

namespace Sys2Proof.Machine

/-! ## INIT and the outcomes of `allocate` -/

section
variable {sid : Sid} {s s1 : State} (ready : HostReady sid s) (uninit : (s.session sid).fsm = .uninitialized)
include ready uninit

theorem exec_init_ready : exec (.init sid) s = .next (initSession sid s) :=
  sessionCommand_ready ready (List.mem_singleton.2 uninit)

theorem exec_init_ok {b : Bank} {c : Chan} {off : Word} (h : allocate sid none s = .ok b c off s1) :
    exec (.init sid) s = .next (respond [0] (initSlot sid b c off s1)) := by
  rw [exec_init_ready ready uninit, initSession, h]

theorem exec_init_fail (h : allocate sid none s = .fail s1) :
    exec (.init sid) s = .next (respond [s1.cfg.errExhausted] s1) := by
  rw [exec_init_ready ready uninit, initSession, h]

theorem exec_init_fatal (h : allocate sid none s = .fatal s1) : exec (.init sid) s = .next s1 := by
  rw [exec_init_ready ready uninit, initSession, h]

end

/-! ## Slots in order (R125(d)) -/

/-- Without an argument, bank 0 is preferred as soon as it is in use (R114). -/
theorem prefers_bank0 {s : State} (h : bankInUse 0 s = true) : Prefers none s 0 :=
  .inr ⟨nofun, .inl ⟨rfl, h⟩⟩

/-- A slot of bank 1 comes after the four of bank 0, and it is the first of its bank or comes after that one. -/
theorem bankOf_eq_zero_or_bank0_full (k : Slot) : bankOf k = 0 ∨
    bankOf k = otherBank 0 ∧ (allChans.filter fun c => decide (¬slot 0 c < k)) = [] ∧ (k = 4 ∨ slot 1 0 < k) := by
  revert k
  decide

section
variable {s : State} {k : Slot} (owned : ∀ i : Slot, (s.ownerAt i).isSome = decide (i < k))
include owned

/-- With slots 0 to k-1 owned, a bank is in use exactly when its first slot is one of them (R112). -/
theorem bankInUse_ownedBelow (b : Bank) : bankInUse b s = decide (slot b 0 < k) := by
  have first : ∀ (b : Bank) (k : Slot), (allChans.any fun c => decide (slot b c < k)) = decide (slot b 0 < k) := by
    decide
  simp only [bankInUse, owned, first]

theorem freeChans_ownedBelow (b : Bank) : freeChans b s = allChans.filter fun c => decide (¬slot b c < k) := by
  simp only [freeChans, ← Option.not_isSome, owned, decide_not]

/-- Slot k is the lowest free one of its bank. -/
theorem freeChans_head_ownedBelow : ∃ cs, freeChans (bankOf k) s = chanOf k :: cs := by
  have lowest : ∀ k : Slot, (allChans.filter fun c => decide (¬slot (bankOf k) c < k)).head? = some (chanOf k) := by
    decide
  rw [freeChans_ownedBelow owned]
  exact List.head?_eq_some_iff.1 (lowest k)

/-- Slot k brings its bank into use when it is the first of the bank. -/
theorem bankInUse_bankOf_ownedBelow : bankInUse (bankOf k) s = false ↔ k = 0 ∨ k = 4 := by
  have first : ∀ k : Slot, decide (slot (bankOf k) 0 < k) = false ↔ k = 0 ∨ k = 4 := by decide
  rw [bankInUse_ownedBelow owned, first]

/-- `allocate` gives slot k: of a first bank, of bank 0 while it has a free slot, then of bank 1. -/
theorem allocate_ownedBelow (h : ClosedInv s) (room : ∀ b, (s.bankEnv b).room = true) (sid : Sid) :
    ∃ off s1, allocate sid none s = .ok (bankOf k) (chanOf k) off s1 := by
  obtain ⟨reuse, first⟩ := closedAllocationPolicy s sid none h
  obtain ⟨cs, free⟩ := freeChans_head_ownedBelow owned
  cases h0 : bankInUse 0 s with
  | false =>
    have start : ∀ k : Slot, decide (slot 0 0 < k) = false → k = 0 := by decide
    obtain rfl : k = 0 := start k (by rw [← bankInUse_ownedBelow owned, h0])
    exact ⟨_, (first h0 (bankInUse_ownedBelow owned 1)).1 (room 0)⟩
  | true =>
    obtain ⟨same, other⟩ := reuse 0 (prefers_bank0 h0)
    obtain hb | ⟨hb, full, hk⟩ := bankOf_eq_zero_or_bank0_full k
    · rw [hb] at free ⊢
      exact ⟨_, same _ cs free⟩
    · obtain ⟨inUse, unused⟩ := other ((freeChans_ownedBelow owned 0).trans full)
      obtain rfl | hk := hk
      · exact ⟨_, (unused (bankInUse_ownedBelow owned 1)).1 (room 1)⟩
      · rw [hb] at free ⊢
        exact ⟨_, (inUse ((bankInUse_ownedBelow owned 1).trans (decide_eq_true hk))).1 _ cs free⟩

end

/-- Settles O21: what `allocate` gives there, and what a successful `allocate` and INIT write. -/
theorem slotsAreGivenInOrder : Obligations.SlotsAreGivenInOrder := by
  intro s sid k h ready uninit room owned
  obtain ⟨off, s1, e⟩ := allocate_ownedBelow owned h room sid
  obtain ⟨-, owner, rfl, offset, -, loads, -, -, -, -, -, responses, -, port, -, -⟩ :=
    allocateClaimsOneFreeSlot s s1 sid none _ _ off e
  obtain ⟨-, -, -, -, -, port', -, -, responses'⟩ :=
    initSlot_keeps sid (bankOf k) (chanOf k) (s1.offsetAt (bankOf k)) s1
  have fresh := bankInUse_bankOf_ownedBelow owned
  refine ⟨_, exec_init_ok ready uninit e, ?_, ?_, ?_, ?_, ?_, fun b => ?_, ?_⟩
  · rw [((sameTables_initSlot sid _ _ _ s1).trans (sameTables_respond [0] _)).ownerAt, owner, slot_bankOf_chanOf,
      if_pos rfl]
  · simp only [respond_keeps, initSlot_session]
  · simp only [respond_keeps, initSlot_session]
  · simp only [respond_keeps, initSlot_session]
  · simp only [respond_keeps, initSlot_session, offset, fresh, true_and]
  · rw [loadCount_respond, initSlot_loadCount, loads]
    simp only [fresh]
  · rw [respond_responses, port', responses', port, responses, ready.port]

/-! ## Exhaustion (R125(b)) -/

/-- What a refused reservation leaves in the record of calls (R193). -/
theorem reserveAsked_none_calls {b : Bank} {s : State} (h : reserveAnswer b s = none) :
    (reserveAsked b s).calls = s.calls ++ [.tryReserve b none] := by
  simp [reserveAsked, askReserve, h]

section
variable {s : State} (owned : ∀ i : Slot, (s.ownerAt i).isSome = true)
include owned

theorem bankInUse_allOwned (b : Bank) : bankInUse b s = true :=
  List.any_eq_true.2 ⟨0, mem_allChans 0, owned _⟩

theorem freeChans_allOwned (b : Bank) : freeChans b s = [] := by
  simp [freeChans, ← Option.not_isSome, owned]

/-- With every slot owned both banks answer "none" (R118 items 1 and 2). -/
theorem allocate_allOwned (h : ClosedInv s) (sid : Sid) :
    ∃ s1, allocate sid none s = .fail s1 ∧ s1.calls = s.calls ++ [.tryReserve 0 none, .tryReserve 1 none] := by
  obtain ⟨asked, e⟩ := allocateFrom_closed_full h (freeChans_allOwned owned 0) sid
  have owned' : ∀ i, ((reserveAsked 0 s).ownerAt i).isSome = true := fun i => by rw [asked.ownerAt, owned]
  have full := freeChans_allOwned owned' 1
  refine ⟨reserveAsked 1 (reserveAsked 0 s), ?_, ?_⟩
  · rw [allocate_preferred ((preferred_some_iff none s 0).2 (prefers_bank0 (bankInUse_allOwned owned 0))), e]
    exact allocateOther_closed_full (h.asked asked) (bankInUse_allOwned owned' 1) full sid
  · rw [reserveAsked_none_calls (reserve_closed_none (h.asked asked) full).1,
      reserveAsked_none_calls (reserve_closed_none h (freeChans_allOwned owned 0)).1, List.append_assoc]
    rfl

end

/-- Settles O22: the two banks are asked in turn, and a failure writes nothing. -/
theorem ninthInitIsExhausted : Obligations.NinthInitIsExhausted := by
  intro s sid h ready uninit owned
  obtain ⟨s1, e, calls⟩ := allocate_allOwned owned h sid
  have asked := allocate_fail e
  exact ⟨_, exec_init_fail ready uninit e,
    by rw [respond_responses, asked.port, asked.responses, asked.cfg, ready.port], asked.owner, asked.sessions, calls⟩

end Sys2Proof.Machine
end

section
/-! Reservation answers out of contract (spec 40_arbiter.md R115; 60_exceptions.md R223, R224): each is F_ARBITRATION,
`allocate` ends in nothing else, and an open collaborator can give one at every reservation `allocate` makes. -/

namespace Sys2Proof.Machine

/-! ## One reservation -/

theorem badAnswer_iff (b : Bank) (n : Nat) (s : State) :
    badAnswer b n s ↔ ¬(n < 4 ∧ s.ownerAt (slot b (BitVec.ofNat 2 n)) = none) := by
  rw [badAnswer, Classical.not_and_iff_not_or_not, Nat.not_lt]

theorem Asked.badAnswer_iff {s t : State} (h : Asked s t) (b : Bank) (n : Nat) : badAnswer b n t ↔ badAnswer b n s := by
  rw [badAnswer, h.ownerAt, badAnswer]

/-- A fault raised after asks that changed nothing is one of the state they began in, with their calls
before its own. -/
theorem ArbitrationFault.after {b : Bank} {n : Nat} {cs cs' : List Call} {s t u : State} (asked : Asked s t)
    (calls : t.calls = s.calls ++ cs) (h : ArbitrationFault b n cs' t u) : ArbitrationFault b n (cs ++ cs') s u where
  fault := h.fault
  calls := by rw [h.calls, calls, List.append_assoc s.calls]
  owner := h.owner.trans asked.owner
  offset := h.offset.trans asked.offset
  sessions := h.sessions.trans asked.sessions
  responses := h.responses.trans asked.responses
  chan i := by rw [h.chan, asked.chan]
  bankEnv b' := (h.bankEnv b').trans (asked.bankEnv b')
  timeUs := h.timeUs.trans asked.timeUs
  cfg := h.cfg.trans asked.cfg
  port := h.port.trans asked.port
  rx := h.rx.trans asked.rx
  agenda := h.agenda.trans asked.agenda

/-- A question answered "none" ends `reserve` there (R115). -/
theorem reserve_none {b : Bank} {s : State} (h : reserveAnswer b s = none) :
    reserve b s = .none (reserveAsked b s) := by
  rcases reserve_cases b s with ⟨-, e⟩ | ⟨c, h', -⟩ | ⟨n, h', -⟩
  · exact e
  · rw [h] at h'; cases h'
  · rw [h] at h'; cases h'

theorem asked_of_reserve_none {b : Bank} {s t : State} (h : reserve b s = .none t) :
    Asked s t ∧ OnlyQuestions s t := by
  rcases reserve_cases b s with ⟨answer, e⟩ | ⟨c, -, -, e⟩ | ⟨n, -, -, e⟩ <;> rw [h] at e <;> cases e
  exact ⟨reserveAsked_none answer, onlyQuestions_reserve answer⟩

/-- An answer outside 0 to 3, or an owned channel, is F_ARBITRATION (R115). -/
theorem reserve_bad {b : Bank} {n : Nat} {s : State} (h : reserveAnswer b s = some n) (bad : badAnswer b n s) :
    ∃ s1, reserve b s = .fatal s1 ∧ ArbitrationFault b n [] s s1 := by
  rw [badAnswer_iff] at bad
  rcases reserve_cases b s with ⟨h', -⟩ | ⟨c, h', free, -⟩ | ⟨n', -, -, e⟩
  · rw [h] at h'; cases h'
  · rw [h] at h'
    obtain rfl : n = c.toNat := Option.some.inj h'
    rw [BitVec.ofNat_toNat, BitVec.setWidth_eq] at bad
    exact absurd ⟨c.isLt, free⟩ bad
  · exact ⟨_, e, arbitrationFault_asked (.refl s) (List.append_nil _).symm h⟩

/-- Nothing else makes `reserve` raise a fault (R115). -/
theorem bad_of_reserve_fatal {b : Bank} {s s1 : State} (h : reserve b s = .fatal s1) :
    ∃ n, badAnswer b n s ∧ ArbitrationFault b n [] s s1 := by
  rcases reserve_cases b s with ⟨-, e⟩ | ⟨c, -, -, e⟩ | ⟨n, answer, bad, e⟩ <;> rw [h] at e <;> cases e
  exact ⟨n, (badAnswer_iff b n s).2 bad, arbitrationFault_asked (.refl s) (List.append_nil _).symm answer⟩

/-! ## Which reservation ends `allocate` (R117, R118) -/

section
variable {sid : Sid} {s s1 : State}

/-- `fresh` asks for a channel only after the answer that there is room (R117). -/
theorem fresh_noRoom {b : Bank} (room : (s.bankEnv b).room = false) : fresh b sid s = .fail (askCanLoad b s).2 := by
  have ask : askCanLoad b s = (false, (askCanLoad b s).2) := Prod.ext room rfl
  rw [fresh, ask]

theorem fresh_fail_of_room {b : Bank} {t : State} (room : (s.bankEnv b).room = true)
    (h : reserve b (askCanLoad b s).2 = .none t) : fresh b sid s = .fail t := by
  have ask : askCanLoad b s = (true, (askCanLoad b s).2) := Prod.ext room rfl
  rw [fresh, ask]
  simp only [h]

theorem asked_of_fresh_fail {b : Bank} {t : State} (hu : bankInUse b s = false) (h : fresh b sid s = .fail t) :
    Asked s t := by
  rcases fresh_spec sid hu with ⟨s0, b', c, -, -, -, -, e⟩ | ⟨s0, asked, e⟩ | ⟨s0, b', n, -, -, -, e⟩ <;>
    rw [h] at e <;> cases e
  exact asked

theorem fresh_fatal_iff {b : Bank} : fresh b sid s = .fatal s1 ↔
    (s.bankEnv b).room = true ∧ reserve b (askCanLoad b s).2 = .fatal s1 := by
  cases room : (s.bankEnv b).room with
  | false => simp [fresh_noRoom room]
  | true =>
    have ask : askCanLoad b s = (true, (askCanLoad b s).2) := Prod.ext room rfl
    rw [fresh, ask]
    cases hr : reserve b (askCanLoad b s).2 <;> simp [hr, claimResident]

theorem allocateOther_fatal_iff {b : Bank} : allocateOther b sid s = .fatal s1 ↔
    (bankInUse b s = true ∧ reserve b s = .fatal s1) ∨ (bankInUse b s = false ∧ fresh b sid s = .fatal s1) := by
  cases hu : bankInUse b s with
  | false => simp [allocateOther_fresh hu]
  | true =>
    rw [allocateOther, if_pos hu]
    cases reserve b s <;> simp [claimResident]

theorem allocateFrom_fatal_iff {p : Bank} : allocateFrom p sid s = .fatal s1 ↔
    reserve p s = .fatal s1 ∨ ∃ t, reserve p s = .none t ∧ allocateOther (otherBank p) sid t = .fatal s1 := by
  rw [allocateFrom]
  cases reserve p s <;> simp [claimResident]

theorem allocateFirst_fatal_iff : allocateFirst sid s = .fatal s1 ↔
    fresh 0 sid s = .fatal s1 ∨ ∃ t, fresh 0 sid s = .fail t ∧ fresh 1 sid t = .fatal s1 := by
  rw [allocateFirst]
  cases fresh 0 sid s <;> simp

end

/-! ## `allocate` raises nothing else -/

/-- `s1` is `s` after questions that changed nothing and then one answer out of contract (R115). -/
def EndsInBadAnswer (s s1 : State) : Prop :=
  ∃ b n cs, badAnswer b n s ∧ ArbitrationFault b n cs s s1 ∧
    ∀ call ∈ cs, ∃ b', call = .tryReserve b' none ∨ ∃ room, call = .canLoad b' room

theorem EndsInBadAnswer.after {s t u : State} (asked : Asked s t) (questions : OnlyQuestions s t)
    (h : EndsInBadAnswer t u) : EndsInBadAnswer s u := by
  obtain ⟨cs, calls, hcs⟩ := questions
  obtain ⟨b, n, cs', bad, fault, hcs'⟩ := h
  exact ⟨b, n, cs ++ cs', (asked.badAnswer_iff b n).1 bad, fault.after asked calls, fun call hm =>
    (List.mem_append.1 hm).elim (hcs call) (hcs' call)⟩

theorem endsInBadAnswer_reserve {b : Bank} {s s1 : State} (h : reserve b s = .fatal s1) : EndsInBadAnswer s s1 := by
  obtain ⟨n, bad, fault⟩ := bad_of_reserve_fatal h
  exact ⟨b, n, [], bad, fault, nofun⟩

theorem endsInBadAnswer_fresh {b : Bank} {sid : Sid} {s s1 : State} (h : fresh b sid s = .fatal s1) :
    EndsInBadAnswer s s1 :=
  (endsInBadAnswer_reserve (fresh_fatal_iff.1 h).2).after (askCanLoad_asked b s) (onlyQuestions_canLoad b s)

theorem endsInBadAnswer_allocateOther {b : Bank} {sid : Sid} {s s1 : State} (h : allocateOther b sid s = .fatal s1) :
    EndsInBadAnswer s s1 := by
  obtain ⟨-, h⟩ | ⟨-, h⟩ := allocateOther_fatal_iff.1 h
  · exact endsInBadAnswer_reserve h
  · exact endsInBadAnswer_fresh h

theorem endsInBadAnswer_allocateFrom {p : Bank} {sid : Sid} {s s1 : State} (h : allocateFrom p sid s = .fatal s1) :
    EndsInBadAnswer s s1 := by
  obtain h | ⟨t, hn, h⟩ := allocateFrom_fatal_iff.1 h
  · exact endsInBadAnswer_reserve h
  · obtain ⟨asked, questions⟩ := asked_of_reserve_none hn
    exact (endsInBadAnswer_allocateOther h).after asked questions

theorem endsInBadAnswer_allocateFirst {sid : Sid} {s s1 : State} (hu : bankInUse 0 s = false)
    (h : allocateFirst sid s = .fatal s1) : EndsInBadAnswer s s1 := by
  obtain h | ⟨t, hf, h⟩ := allocateFirst_fatal_iff.1 h
  · exact endsInBadAnswer_fresh h
  · exact (endsInBadAnswer_fresh h).after (asked_of_fresh_fail hu hf) (onlyQuestions_fresh hf)

theorem endsInBadAnswer_allocate {sid : Sid} {pref : Option Bank} {s s1 : State}
    (h : allocate sid pref s = .fatal s1) : EndsInBadAnswer s s1 := by
  cases hp : preferred pref s with
  | some p => exact endsInBadAnswer_allocateFrom ((allocate_preferred hp sid).symm.trans h)
  | none => exact endsInBadAnswer_allocateFirst (preferred_none hp 0) ((allocate_first hp sid).symm.trans h)

/-! ## The scripts of an open collaborator (notes/assumptions/11.md) -/

/-- The question about room is recorded with its answer, and uses up no scripted one (R194). -/
theorem askCanLoad_calls {b : Bank} {s : State} {room : Bool} (h : (s.bankEnv b).room = room) :
    (askCanLoad b s).2.calls = s.calls ++ [.canLoad b room] := by
  rw [← h]
  rfl

theorem reserveAnswer_askCanLoad (b b' : Bank) (s : State) :
    reserveAnswer b (askCanLoad b' s).2 = reserveAnswer b s := rfl

theorem fresh_bad {b : Bank} {n : Nat} {s : State} (sid : Sid) (room : (s.bankEnv b).room = true)
    (h : reserveAnswer b s = some n) (bad : badAnswer b n s) :
    ∃ s1, fresh b sid s = .fatal s1 ∧ ArbitrationFault b n [.canLoad b true] s s1 := by
  have asked := askCanLoad_asked b s
  obtain ⟨s1, e, fault⟩ := reserve_bad ((reserveAnswer_askCanLoad b b s).trans h) ((asked.badAnswer_iff b n).2 bad)
  exact ⟨s1, fresh_fatal_iff.2 ⟨room, e⟩, fault.after asked (askCanLoad_calls room)⟩

section
variable {s : State} (isOpen : s.cfg.collabClosed = false)
include isOpen

theorem reserveAnswer_scripted {a : Option Nat} {more : List (Option Nat)} (h : s.collab.answers = a :: more)
    (b : Bank) : reserveAnswer b s = a := by
  simp [reserveAnswer, isOpen, h]

/-- The next script after one has been used up. -/
theorem reserveAnswer_scripted_next {a a' : Option Nat} {more : List (Option Nat)}
    (h : s.collab.answers = a :: a' :: more) (b b' : Bank) : reserveAnswer b (reserveAsked b' s) = a' := by
  have answers : (reserveAsked b' s).collab.answers = a' :: more := by
    simp [reserveAsked, askReserve, useAnswer, isOpen, h]
  exact reserveAnswer_scripted (by rw [(reserveAsked_keeps b' s).1, isOpen]) answers b

/-- The preferred bank's answer is out of contract, or it is full and the other bank's is (R115, R118). -/
theorem allocateFrom_bad (sid : Sid) (p : Bank) {n : Nat} {more : List (Option Nat)} :
    (s.collab.answers = some n :: more → badAnswer p n s →
      ∃ s1, allocateFrom p sid s = .fatal s1 ∧ ArbitrationFault p n [] s s1) ∧
    (s.collab.answers = none :: some n :: more → badAnswer (otherBank p) n s →
      (bankInUse (otherBank p) s = true →
        ∃ s1, allocateFrom p sid s = .fatal s1 ∧ ArbitrationFault (otherBank p) n [.tryReserve p none] s s1) ∧
      (bankInUse (otherBank p) s = false → (s.bankEnv (otherBank p)).room = true →
        ∃ s1, allocateFrom p sid s = .fatal s1 ∧
          ArbitrationFault (otherBank p) n [.tryReserve p none, .canLoad (otherBank p) true] s s1)) := by
  refine ⟨fun h bad => ?_, fun h bad => ?_⟩
  · obtain ⟨s1, e, fault⟩ := reserve_bad (reserveAnswer_scripted isOpen h p) bad
    exact ⟨s1, allocateFrom_fatal_iff.2 (.inl e), fault⟩
  · have full := reserveAnswer_scripted isOpen h p
    have asked := reserveAsked_none full
    have answer := reserveAnswer_scripted_next isOpen h (otherBank p) p
    rw [← asked.badAnswer_iff] at bad
    rw [← asked.bankInUse, ← asked.bankEnv]
    refine ⟨fun hu => ?_, fun hu room => ?_⟩
    · obtain ⟨s1, e, fault⟩ := reserve_bad answer bad
      exact ⟨s1, allocateFrom_fatal_iff.2 (.inr ⟨_, reserve_none full, allocateOther_fatal_iff.2 (.inl ⟨hu, e⟩)⟩),
        fault.after asked (reserveAsked_none_calls full)⟩
    · obtain ⟨s1, e, fault⟩ := fresh_bad sid room answer bad
      exact ⟨s1, allocateFrom_fatal_iff.2 (.inr ⟨_, reserve_none full, allocateOther_fatal_iff.2 (.inr ⟨hu, e⟩)⟩),
        fault.after asked (reserveAsked_none_calls full)⟩

/-- With no bank in use: the answer of the first bank with room is out of contract, or the first bank has room and no
channel and the second bank's answer is (R115, R118). -/
theorem allocateFirst_bad (sid : Sid) {n : Nat} {more : List (Option Nat)} :
    (s.collab.answers = some n :: more → (s.bankEnv 0).room = true → badAnswer 0 n s →
      ∃ s1, allocateFirst sid s = .fatal s1 ∧ ArbitrationFault 0 n [.canLoad 0 true] s s1) ∧
    (s.collab.answers = some n :: more → (s.bankEnv 0).room = false → (s.bankEnv 1).room = true → badAnswer 1 n s →
      ∃ s1, allocateFirst sid s = .fatal s1 ∧ ArbitrationFault 1 n [.canLoad 0 false, .canLoad 1 true] s s1) ∧
    (s.collab.answers = none :: some n :: more → (s.bankEnv 0).room = true → (s.bankEnv 1).room = true →
      badAnswer 1 n s → ∃ s1, allocateFirst sid s = .fatal s1 ∧
        ArbitrationFault 1 n [.canLoad 0 true, .tryReserve 0 none, .canLoad 1 true] s s1) := by
  have canLoad := askCanLoad_asked 0 s
  refine ⟨fun h room0 bad => ?_, fun h room0 room1 bad => ?_, fun h room0 room1 bad => ?_⟩
  · obtain ⟨s1, e, fault⟩ := fresh_bad sid room0 (reserveAnswer_scripted isOpen h 0) bad
    exact ⟨s1, allocateFirst_fatal_iff.2 (.inl e), fault⟩
  · rw [← canLoad.badAnswer_iff] at bad
    rw [← canLoad.bankEnv] at room1
    have answer := (reserveAnswer_askCanLoad 1 0 s).trans (reserveAnswer_scripted isOpen h 1)
    obtain ⟨s1, e, fault⟩ := fresh_bad sid room1 answer bad
    exact ⟨s1, allocateFirst_fatal_iff.2 (.inr ⟨_, fresh_noRoom room0, e⟩),
      fault.after canLoad (askCanLoad_calls room0)⟩
  · have full := (reserveAnswer_askCanLoad 0 0 s).trans (reserveAnswer_scripted isOpen h 0)
    have asked := canLoad.trans (reserveAsked_none full)
    have calls : (reserveAsked 0 (askCanLoad 0 s).2).calls = s.calls ++ [.canLoad 0 true, .tryReserve 0 none] := by
      rw [reserveAsked_none_calls full, askCanLoad_calls room0, List.append_assoc]
      rfl
    rw [← asked.badAnswer_iff] at bad
    rw [← asked.bankEnv] at room1
    have answer := reserveAnswer_scripted_next (s := (askCanLoad 0 s).2) isOpen h 1 0
    obtain ⟨s1, e, fault⟩ := fresh_bad sid room1 answer bad
    exact ⟨s1, allocateFirst_fatal_iff.2 (.inr ⟨_, fresh_fail_of_room room0 (reserve_none full), e⟩),
      fault.after asked calls⟩

end

/-! ## The commands that end there (R119, R144) -/

/-- What ALLOC and ALLOC.P leave after `allocate`: an answer, but none after a fatal fault (R119). -/
def allocAnswered : Allocated → State
  | .ok b c off s1 => respond [(slot b c).setWidth 32, off] s1
  | .fail s1 => respond [noneWord, 0] s1
  | .fatal s1 => s1

theorem allocCommand_ready {sid : Sid} {s : State} (running : Running s) (port : s.port = .arb)
    (exists_ : sid.toNat < s.cfg.nSess) (pref : Option Bank) :
    allocCommand sid pref s = .next (allocAnswered (allocate sid pref s)) := by
  rw [allocCommand, whenRunning_running s running, if_neg (by simp [port]), if_neg (Nat.not_le.2 exists_)]
  cases allocate sid pref s <;> rfl

/-- Settles O23: each reservation of `allocate` is a `reserve`, after asks that changed nothing. -/
theorem badReservationIsFatal : Obligations.BadReservationIsFatal := by
  refine ⟨fun s b n => reserve_bad,
    fun s s1 sid pref h => ⟨endsInBadAnswer_allocate h, ?_, fun running port exists_ => ?_⟩,
    fun s sid pref n more isOpen => ⟨fun p hp => ?_, fun hp => ?_⟩⟩
  · rintro rfl ready uninit
    exact exec_init_fatal ready uninit h
  · have ended : allocCommand sid pref s = .next s1 := by
      rw [allocCommand_ready running port exists_, h, allocAnswered]
    exact ⟨fun hpref => by subst hpref; exact ended, fun p hpref => by subst hpref; exact ended⟩
  · rw [allocate_preferred hp]
    exact allocateFrom_bad isOpen sid p
  · rw [allocate_first hp]
    exact allocateFirst_bad isOpen sid

end Sys2Proof.Machine
end

section
/-! The answers of the arbiter's five instructions (spec 40_arbiter.md R119, R121 to R123). -/

namespace Sys2Proof.Machine

/-- A query is answered on HOST and ARB alike (R92). -/
theorem queryCommand_ready {s : State} (running : Running s) (port : s.port = .host ∨ s.port = .arb) (answer : Word) :
    queryCommand answer s = .next (answering s false [answer]) := by
  have accepted : s.port ≠ .stimulus := by
    rcases port with h | h <;> rw [h] <;> decide
  exact (whenRunning_running s running).trans (if_neg accepted)

/-- Settles O25: the two words RESOLVE answers. -/
theorem resolveAnswersOwner : Obligations.ResolveAnswersOwner := by
  intro s b c running port
  refine ⟨fun sid owned => ?_, fun free => ?_⟩
  · exact (queryCommand_ready running port _).trans (by rw [resolve, owned]; rfl)
  · exact (queryCommand_ready running port _).trans (by rw [resolve, free]; rfl)

/-- A bank is not in use exactly when none of its slots is owned (R112). -/
theorem bankInUse_eq_false_iff (b : Bank) (s : State) : bankInUse b s = false ↔ ∀ c, s.ownerAt (slot b c) = none := by
  simp only [Bool.eq_false_iff, Ne, bankInUse_iff, not_exists, Option.eq_none_iff_forall_ne_some]

/-- Settles O26: `bankInUse` is R112's condition. -/
theorem bankuseAnswersInUse : Obligations.BankuseAnswersInUse := by
  intro s b running port
  refine ⟨fun owned => ?_, fun free => ?_⟩
  · exact (queryCommand_ready running port _).trans (by rw [(bankInUse_iff b s).2 owned]; rfl)
  · exact (queryCommand_ready running port _).trans (by rw [(bankInUse_eq_false_iff b s).2 free]; rfl)

/-- Settles O27: PROGOFF is a query for the offset. -/
theorem progoffAnswersOffset : Obligations.ProgoffAnswersOffset :=
  fun s b running port => queryCommand_ready running port (s.offsetAt b)

/-! ## ALLOC and ALLOC.P (R119) -/

/-- The first word of a successful ALLOC: the slot's global index (R61, R119). -/
theorem slot_setWidth (b : Bank) (c : Chan) : (slot b c).setWidth 32 = BitVec.ofNat 32 (b.toNat * 4 + c.toNat) := by
  rw [← slot_toNat, BitVec.ofNat_toNat]

/-- A handle that names no session unit is refused (R97). -/
theorem allocCommand_noSession {sid : Sid} {s : State} (running : Running s) (port : s.port = .arb)
    (beyond : s.cfg.nSess ≤ sid.toNat) (pref : Option Bank) : allocCommand sid pref s = .next (refuse .sid s) :=
  (whenRunning_running s running).trans ((if_neg (by simp [port])).trans (if_pos beyond))

/-- Settles O24: both instructions are `allocCommand`, which checks the port, then the handle, and answers what
`allocate` gave. -/
theorem allocCommandResult : Obligations.AllocCommandResult := by
  intro s sid running i pref hi
  have command : exec i s = allocCommand sid pref s := by
    obtain ⟨rfl, rfl⟩ | ⟨p, rfl, rfl⟩ := hi <;> rfl
  rw [command]
  refine ⟨fun port => allocCommand_wrongPort running (by rw [port]; decide),
    fun port beyond => allocCommand_noSession running port beyond pref, fun port exists_ => ?_⟩
  rw [allocCommand_ready running port exists_]
  cases h : allocate sid pref s with
  | ok b c off s1 =>
    obtain ⟨-, -, -, -, -, hoff, -⟩ := allocate_ok h
    exact ⟨by rw [← slot_setWidth]; rfl, hoff⟩
  | fail s1 => rfl
  | fatal s1 => rfl

end Sys2Proof.Machine
end

section
/-! The host operations of a session: their checks, CONSTRUCT, INIT and the accessors (spec 41_session_host.md R140 to
R150). -/

namespace Sys2Proof.Machine

/-! ## The common checks (R97, R140) -/

section
variable {sid : Sid} {allowed : List Fsm} {s k : State} (running : Running s) (port : s.port = .host)
include running port

/-- A handle that names no session unit is refused (R97). -/
theorem sessionCommand_noSession (beyond : s.cfg.nSess ≤ sid.toNat) :
    sessionCommand sid allowed s k = .next (refuse .sid s) :=
  (whenRunning_running s running).trans ((if_neg (by simp [port])).trans (if_pos beyond))

/-- The control state is looked at once the handle is known to name a unit (R140). -/
theorem sessionCommand_wrongState (exists_ : sid.toNat < s.cfg.nSess) (wrong : (s.session sid).fsm ∉ allowed) :
    sessionCommand sid allowed s k = .next (refuse .state s) :=
  (whenRunning_running s running).trans
    ((if_neg (by simp [port])).trans ((if_neg (Nat.not_le.2 exists_)).trans (if_pos wrong)))

end

/-- Each of the five host operations is a session command with the control states of R140. -/
theorem exec_hostOperation {i : Instr} {sid : Sid} {allowed : List Fsm} (h : hostOperation i = some (sid, allowed))
    (s : State) : ∃ k, exec i s = sessionCommand sid allowed s k := by
  cases i with
  | construct | init | getdir | getper | getbank => cases h; exact ⟨_, rfl⟩
  | alloc | allocP | resolve | bankuse | progoff | evCapture | evWdexp | evTime => cases h

/-- Settles O13: the five operations are session commands, and what the operation itself would do is not looked at
before the checks. -/
theorem sessionChecksInOrder : Obligations.SessionChecksInOrder := by
  intro i sid allowed s hi running port
  obtain ⟨k, command⟩ := exec_hostOperation hi s
  rw [command]
  exact ⟨sessionCommand_noSession running port, sessionCommand_wrongState running port⟩

/-! ## The accessors (R148 to R150) -/

theorem mem_constructedStates_iff (f : Fsm) : f ∈ constructedStates ↔ f ≠ .absent := by
  cases f <;> decide

/-- An accessor answers `words` for a unit that exists and is constructed, and is refused otherwise (R140). -/
theorem accessor_answers {sid : Sid} {s : State} (running : Running s) (port : s.port = .host) (words : List Word) :
    (s.cfg.nSess ≤ sid.toNat →
      sessionCommand sid constructedStates s (respond words s) = .next (answering s true [3])) ∧
    (sid.toNat < s.cfg.nSess → (s.session sid).fsm = .absent →
      sessionCommand sid constructedStates s (respond words s) = .next (answering s true [4])) ∧
    (sid.toNat < s.cfg.nSess → (s.session sid).fsm ≠ .absent →
      sessionCommand sid constructedStates s (respond words s) = .next (answering s false words)) :=
  ⟨sessionCommand_noSession running port,
    fun exists_ absent => sessionCommand_wrongState running port exists_
      fun allowed => (mem_constructedStates_iff _).1 allowed absent,
    fun exists_ built => sessionCommand_ready ⟨running, port, exists_⟩ ((mem_constructedStates_iff _).2 built)⟩

/-- Settles O28: GETDIR is the accessor of the direction. -/
theorem getdirAnswersDirection : Obligations.GetdirAnswersDirection :=
  fun s sid running port => accessor_answers running port [boolWord (s.session sid).direction]

/-- Settles O29: GETPER is the accessor of the period's two words. -/
theorem getperAnswersPeriod : Obligations.GetperAnswersPeriod :=
  fun s sid running port => accessor_answers running port (periodWords (s.session sid))

theorem bankWord_initialized {u : Session} (h : u.fsm = .initialized) : bankWord u = u.bank.setWidth 32 :=
  if_pos (beq_iff_eq.2 h)

theorem bankWord_not_initialized {u : Session} (h : u.fsm ≠ .initialized) : bankWord u = noneWord :=
  if_neg (mt beq_iff_eq.1 h)

/-- Settles O30: GETBANK is the accessor of the bank word, which depends on the control state. -/
theorem getbankAnswersBank : Obligations.GetbankAnswersBank := by
  intro s sid running port
  obtain ⟨noSession, absent, answered⟩ := accessor_answers running port [bankWord (s.session sid)]
  refine ⟨noSession, absent, fun exists_ init => ?_, fun exists_ uninit => ?_⟩
  · rw [← bankWord_initialized init]
    exact answered exists_ (by simp [init])
  · exact (answered exists_ (by simp [uninit])).trans (by rw [bankWord_not_initialized (by simp [uninit])]; rfl)

/-! ## CONSTRUCT (R141, R142) -/

/-- Settles O14: the common checks, then `construct_cases` on the range of the count. -/
theorem constructResult : Obligations.ConstructResult := by
  intro s sid pin timeout running port
  refine ⟨sessionCommand_noSession running port, fun exists_ built => ?_, fun exists_ absent => ?_⟩
  · exact sessionCommand_wrongState running port exists_ (mt List.mem_singleton.1 built)
  · have run : exec (.construct sid pin timeout) s = .next (construct sid pin timeout s) :=
      sessionCommand_ready ⟨running, port, exists_⟩ (List.mem_singleton.2 absent)
    rw [run]
    obtain ⟨tooLong, e⟩ | ⟨fits, e⟩ := construct_cases sid pin timeout s <;> rw [e]
    · exact ⟨fun _ => rfl, fun fits => absurd tooLong (Nat.not_le.2 fits)⟩
    · exact ⟨fun tooLong => absurd tooLong (Nat.not_le.2 fits), fun _ => rfl⟩

/-! ## INIT (R144, R145) -/

/-- Settles O16: `allocate` claims the slot and keeps what is not the arbiter's (O18); `initSlot` programs the channel
and writes the session; a failing `allocate` keeps the configuration, and with it ERR_EXHAUSTED. -/
theorem initResult : Obligations.InitResult := by
  intro s sid running port
  refine ⟨sessionCommand_noSession running port, fun exists_ other => ?_, fun exists_ uninit => ?_⟩
  · exact sessionCommand_wrongState running port exists_ (mt List.mem_singleton.1 other)
  have ready : HostReady sid s := ⟨running, port, exists_⟩
  cases h : allocate sid none s with
  | fail s1 => exact (exec_init_fail ready uninit h).trans (by rw [(allocate_fail h).cfg]; rfl)
  | fatal s1 => exact exec_init_fatal ready uninit h
  | ok b c off s1 =>
    obtain ⟨-, owner, hoff, -, -, -, -, -, sessions, fault, timeUs, responses, cfg, port1, rx, agenda⟩ :=
      allocateClaimsOneFreeSlot s s1 sid none b c off h
    have session (x : Sid) : s1.session x = s.session x := by simp only [State.session, sessions]
    obtain ⟨chan, chans, bank, banks⟩ := initSlot_collab sid b c off s1
    obtain ⟨answers, draws⟩ := initSlot_draws sid b c off s1
    obtain ⟨cfg', owner', offset', fault', timeUs', port', rx', agenda', responses'⟩ := initSlot_keeps sid b c off s1
    refine ⟨_, exec_init_ok ready uninit h, ?_, fun x hx => ?_, owner', offset', ?_, ?_, ?_, ?_, chans, bank, banks,
      answers, draws, ?_, fault'.trans fault, timeUs'.trans timeUs, cfg'.trans cfg, port'.trans port1, rx'.trans rx,
      agenda'.trans agenda⟩
    · refine (initSlot_session sid b c off s1).trans ?_
      rw [session, timeUs, deadlineOf]
    · exact (initSlot_session_ne hx b c off s1).trans (session x)
    · simp only [respond_keeps, State.ownerAt, owner']
      exact (owner _).trans (if_pos rfl)
    · simp only [respond_keeps, State.offsetAt, offset']
      exact hoff.symm
    · rw [← session]
      exact initSlot_calls sid b c off s1
    · rw [← session]
      exact chan
    · rw [respond_responses, port', responses', port1, responses, port]

/-- Settles O17: a failing `allocate` asks its questions and changes nothing, and INIT then only answers. -/
theorem failedInitChangesNothing : Obligations.FailedInitChangesNothing := by
  intro s s1 sid ready uninit h
  have asked := allocate_fail h
  obtain ⟨cs, calls, questions⟩ := onlyQuestions_allocate h
  exact ⟨_, cs, exec_init_fail ready uninit h,
    by rw [respond_responses, asked.port, asked.responses, asked.cfg, ready.port], asked.sessions, asked.owner,
    asked.offset, asked.fault, asked.chan, asked.bankEnv, calls, questions, asked.timeUs, asked.cfg, asked.port,
    asked.rx, asked.agenda⟩

end Sys2Proof.Machine
end

section
/-! A served capture and a served expiry, in the terms of the claims, and the three ways a capture comes to be served:
EV_CAPTURE, the demultiplexer, an idle block (spec 42_session_events.md R170 to R181; 60_exceptions.md R231, R233). -/

namespace Sys2Proof.Machine

/-! ## What `on_capture` leaves -/

/-- A capture with a count in range, with its frame (R171 to R174). -/
theorem onCapture_captureServed {sid : Sid} {s : State} {v1 v2 : Word} {rest : List Word}
    (hf : (s.chan (slot (s.session sid).bank (s.session sid).channel)).fifo = v1 :: v2 :: rest)
    (hr : v2 ≤ (s.session sid).maxCounter) :
    CaptureServed sid (s.session sid).bank (s.session sid).channel v1 v2 rest
      (s.chan (slot (s.session sid).bank (s.session sid).channel)).flagTime s (onCapture sid s) := by
  have sv := onCapture_served sid s
  obtain ⟨session, channel, fault, calls⟩ := onCapture_ok hf (BitVec.not_lt.mpr hr)
  exact { session, others := sv.others, channel, channels := sv.chans, bankEnv := sv.bankEnv, calls
          answers := sv.draws.1, draws := sv.draws.2, owner := sv.owner, offset := sv.offset, fault
          timeUs := sv.timeUs, cfg := sv.cfg, port := sv.port, rx := sv.rx, agenda := sv.agenda
          responses := sv.responses }

/-- A capture with a count out of range, with its frame (R181, R224). -/
theorem onCapture_cut_range {sid : Sid} {s : State} {v1 v2 : Word} {rest : List Word}
    (hf : (s.chan (slot (s.session sid).bank (s.session sid).channel)).fifo = v1 :: v2 :: rest)
    (hr : (s.session sid).maxCounter < v2) :
    CaptureCut 2 sid (s.session sid).bank (s.session sid).channel
      { s.session sid with direction := !v1.getLsbD 0, wd := .idle }
      { s.chan (slot (s.session sid).bank (s.session sid).channel) with fifo := rest }
      [.readValue (s.session sid).bank (s.session sid).channel (some v1),
       .readValue (s.session sid).bank (s.session sid).channel (some v2)] s (onCapture sid s) := by
  obtain ⟨session, channel, fault, calls⟩ := onCapture_range hf hr
  exact onCapture_cut fault session channel calls

/-! ## The collaborator's part of a capture is no part of its service -/

theorem captured_chan_same (b : Bank) (c : Chan) (d r : Word) (s : State) :
    (captured b c d r s).chan (slot b c) =
      { s.chan (slot b c) with
        fifo := (s.chan (slot b c)).fifo ++ [d, r], armed := none, irqFlag := true, flagTime := s.timeUs } :=
  (captured_chan b c d r s _).trans (if_pos rfl)

theorem captured_chan_ne {b : Bank} {c : Chan} {j : Slot} (hj : j ≠ slot b c) (d r : Word) (s : State) :
    (captured b c d r s).chan j = s.chan j :=
  (captured_chan b c d r s j).trans (if_neg hj)

theorem CaptureServed.of_captured {sid : Sid} {b : Bank} {c : Chan} {d r v1 v2 : Word} {rest : List Word}
    {flagged : Word64} {s t : State} (h : CaptureServed sid b c v1 v2 rest flagged (captured b c d r s) t) :
    CaptureServed sid b c v1 v2 rest flagged s t :=
  { h with
    channel := h.channel.trans (by rw [captured_chan_same]; rfl)
    channels := fun i hi => (h.channels i hi).trans (captured_chan_ne hi d r s) }

theorem CaptureCut.of_captured {code : BitVec 4} {sid : Sid} {b : Bank} {c : Chan} {d r : Word} {u : Session}
    {ch : Channel} {cs : List Call} {s t : State} (h : CaptureCut code sid b c u ch cs (captured b c d r s) t) :
    CaptureCut code sid b c u ch cs s t :=
  { h with channels := fun i hi => (h.channels i hi).trans (captured_chan_ne hi d r s) }

/-! ## The three ways a capture comes to be served -/

section
variable {s : State} {sid : Sid} {b : Bank} {c : Chan} (running : Running s) (owned : s.ownerAt (slot b c) = some sid)
include running owned

theorem exec_evCapture_owned (port : s.port = .stimulus) (line : (s.bankEnv b).lineEn.getLsbD c.toNat = true)
    (d r : Word) : exec (.evCapture b c d r) s = .next (onCapture sid (captured b c d r s)) := by
  refine (stimulusCommand_ready running port).trans ?_
  rw [captureAndServe_enabled d r line, serveCapture_owned (s := captured b c d r s) owned]

theorem step_serve_owned {ag : List Event} (idle : HostIdle s) (agenda : s.agenda = .serve b c :: ag)
    (pend : pending b c s = true) : step s = .next (onCapture sid (setAgenda ag s)) := by
  rw [step_serve running idle agenda pend, serveCapture_owned (s := setAgenda ag s) owned]

theorem step_settle_owned (idle : HostIdle s) (agenda : s.agenda = [])
    (first : s.cfg.irqOrder.find? (pendingSlot s) = some (slot b c)) : step s = .next (onCapture sid s) := by
  rw [step_settle_capture running idle agenda first, serveCapture_owned owned]

end

theorem pending_of_flag_line {b : Bank} {c : Chan} {s : State} (flag : (s.chan (slot b c)).irqFlag = true)
    (line : (s.bankEnv b).lineEn.getLsbD c.toNat = true) : pending b c s = true := by
  rw [pending, flag, line, Bool.and_self]

/-- Settles O31: all three ways run the owner's `on_capture`, EV_CAPTURE after the collaborator's own part. -/
theorem captureResult : Obligations.CaptureResult := by
  rintro s sid _ _ v1 v2 rest running owned rfl rfl line inRange
  refine ⟨fun d r port queue => ?_, fun flag queue idle => ⟨fun ag agenda => ?_, fun agenda first => ?_⟩⟩
  · refine ⟨_, exec_evCapture_owned running owned port line d r, ?_⟩
    have chan := captured_chan_same (s.session sid).bank (s.session sid).channel d r s
    have served := onCapture_captureServed (s := captured _ _ d r s) ((congrArg Channel.fifo chan).trans queue) inRange
    exact (congrArg Channel.flagTime chan ▸ served).of_captured
  · exact ⟨_, step_serve_owned running owned idle agenda (pending_of_flag_line flag line),
      onCapture_captureServed (s := setAgenda ag s) queue inRange⟩
  · exact ⟨_, step_settle_owned running owned idle agenda first, onCapture_captureServed queue inRange⟩

/-- Settles O33: the three ways of O31, with the service cut at the range check. -/
theorem countAboveMaxIsFatal : Obligations.CountAboveMaxIsFatal := by
  rintro s sid _ _ v1 v2 rest running owned rfl rfl line above
  refine ⟨fun d r port queue => ?_, fun flag queue idle => ⟨fun ag agenda => ?_, fun agenda first => ?_⟩⟩
  · refine ⟨_, exec_evCapture_owned running owned port line d r, ?_⟩
    have chan := captured_chan_same (s.session sid).bank (s.session sid).channel d r s
    have cut := onCapture_cut_range (s := captured _ _ d r s) ((congrArg Channel.fifo chan).trans queue) above
    exact (chan ▸ cut).of_captured
  · exact ⟨_, step_serve_owned running owned idle agenda (pending_of_flag_line flag line),
      onCapture_cut_range (s := setAgenda ag s) queue above⟩
  · exact ⟨_, step_settle_owned running owned idle agenda first, onCapture_cut_range queue above⟩

/-- Settles O32: `onCapture_ok` names the direction and the period by these words and the count alone. -/
theorem captureIsDeterminedByItsWords : Obligations.CaptureIsDeterminedByItsWords := by
  rintro s s' x x' v1 v2 v1' _ rest rest' hcfg hmax queue queue' hbit rfl inRange
  obtain ⟨session, -⟩ := onCapture_ok queue (BitVec.not_lt.mpr inRange)
  obtain ⟨session', -⟩ := onCapture_ok queue' (BitVec.not_lt.mpr (hmax ▸ inRange))
  rw [session, session']
  exact ⟨congrArg (!·) hbit, by rw [hcfg, hmax]⟩

/-! ## Expiries -/

theorem setSession_setSession (sid : Sid) (u v : Session) (s : State) :
    setSession sid v (setSession sid u s) = setSession sid v s := by
  simp [setSession]

/-- An expiry is one write of its session (R175, R176). -/
theorem onExpiry_eq (sid : Sid) (s : State) :
    onExpiry sid s = setSession sid { s.session sid with periodUs := 0, wd := .idle } s := by
  rw [onExpiry, setPeriod, wdCancel_session, wdCancel, setSession_setSession]

/-- In the stimulus stream EV_WDEXP serves an expiry that is enabled (R94). -/
theorem exec_evWdexp_enabled {sid : Sid} {s : State} (running : Running s) (port : s.port = .stimulus)
    (enabled : expiryEnabled sid s = true) : exec (.evWdexp sid) s = .next (onExpiry sid s) :=
  (stimulusCommand_ready running port).trans (if_pos enabled)

/-- Settles O37: the expiry is enabled, since no capture of the session is ready at its deadline. -/
theorem expiryResult : Obligations.ExpiryResult := by
  intro s sid deadline running port exists_ wd due noCapture
  have notReady : captureReadyAt sid deadline s = false := by
    rw [Bool.eq_false_iff, Ne, captureReadyAt_iff]
    rintro ⟨pend, flagTime⟩
    obtain quiet | other := noCapture
    · rw [quiet] at pend
      cases pend
    · exact other flagTime
  have enabled := (expiryEnabled_iff sid s).mpr ⟨deadline, wd, exists_, due, notReady⟩
  rw [exec_evWdexp_enabled running port enabled, onExpiry_eq]

end Sys2Proof.Machine
end

section
/-! `f64` respects the order of the quotients, and with it what the spec says of a period (spec 42_session_events.md
R180, R183): its order, its range and its corner values. -/

namespace Sys2Proof.Machine

/-! ## Quotients in order round in order -/

/-- A larger quotient has a larger whole part, or the same one and a larger remainder. -/
theorem roundHalfEven_mono (d : Nat) {n n' : Nat} (h : n ≤ n') : roundHalfEven n d ≤ roundHalfEven n' d := by
  have hq : n / d ≤ n' / d := Nat.div_le_div_right h
  have hr : n / d = n' / d → n % d ≤ n' % d := by
    intro heq
    have hn : n / d * d + n % d = n := Nat.div_add_mod' n d
    have hn' : n' / d * d + n' % d = n' := Nat.div_add_mod' n' d
    rw [heq] at hn
    omega
  unfold roundHalfEven
  dsimp only
  split <;> split <;> omega

/-- Two quotients in order, brought to one denominator, round in order. -/
theorem roundHalfEven_le_of_quotient_le {n d n' d' : Nat} (hd : 0 < d) (hd' : 0 < d') (h : n * d' ≤ n' * d) :
    roundHalfEven n d ≤ roundHalfEven n' d' := by
  rw [← roundHalfEven_mul_right n d hd', ← roundHalfEven_mul_right n' d' hd, Nat.mul_comm d' d]
  exact roundHalfEven_mono _ h

/-- The exponent is the least whose unit leaves the quotient at most 53 bits. -/
theorem f64Exponent_le {num den e : Nat} (hnum : num ≠ 0) (h : num * 2 ^ 1074 < 2 ^ 53 * (den * 2 ^ e)) :
    f64Exponent num den ≤ e := by
  refine Nat.le_of_not_lt fun hlt => ?_
  have hlower : 2 ^ 52 * (den * 2 ^ f64Exponent num den) ≤ num * 2 ^ 1074 := f64Exponent_lower hnum (by omega)
  refine Nat.lt_irrefl (num * 2 ^ 1074) (Nat.lt_of_lt_of_le h (Nat.le_trans ?_ hlower))
  calc 2 ^ 53 * (den * 2 ^ e) = 2 ^ 52 * (den * 2 ^ (e + 1)) := by
        rw [Nat.pow_succ 2 e, ← Nat.mul_assoc den]
        omega
    _ ≤ 2 ^ 52 * (den * 2 ^ f64Exponent num den) :=
      Nat.mul_le_mul_left _ (Nat.mul_le_mul_left _ (Nat.pow_le_pow_right Nat.two_pos hlt))

theorem f64Image_eq (num den : Nat) :
    f64Image num den = min (f64Exponent num den * 2 ^ 52 + f64Rounded num den) f64Infinity := rfl

section
variable {num den num' den' : Nat} (hnum : num ≠ 0) (hden : 0 < den) (hden' : 0 < den')
  (h : num * den' ≤ num' * den)
include hnum hden' h

theorem quotient_ne_zero_of_le : num' ≠ 0 := by
  rintro rfl
  rw [Nat.zero_mul] at h
  exact Nat.mul_ne_zero hnum (Nat.ne_of_gt hden') (Nat.le_zero.mp h)

include hden in
theorem f64Exponent_le_of_quotient_le : f64Exponent num den ≤ f64Exponent num' den' := by
  refine f64Exponent_le hnum (Nat.lt_of_mul_lt_mul_right (a := den') ?_)
  calc num * 2 ^ 1074 * den' = num * den' * 2 ^ 1074 := Nat.mul_right_comm _ _ _
    _ ≤ num' * den * 2 ^ 1074 := Nat.mul_le_mul_right _ h
    _ = num' * 2 ^ 1074 * den := Nat.mul_right_comm _ _ _
    _ < 2 ^ 53 * (den' * 2 ^ f64Exponent num' den') * den :=
      Nat.mul_lt_mul_of_pos_right (f64Exponent_upper num' hden') hden
    _ = 2 ^ 53 * (den * 2 ^ f64Exponent num' den') * den' := by
      rw [Nat.mul_assoc, Nat.mul_assoc (2 ^ 53) (den * _), Nat.mul_right_comm den' _ den,
        Nat.mul_right_comm den _ den', Nat.mul_comm den' den]

include hden in
/-- At one exponent the significands are in order; a higher exponent outweighs any significand below it. -/
theorem f64Image_le_of_quotient_le : f64Image num den ≤ f64Image num' den' := by
  have hnum' : num' ≠ 0 := quotient_ne_zero_of_le hnum hden' h
  rw [f64Image_eq, f64Image_eq]
  have hupper : f64Rounded num den ≤ 2 ^ 53 := (f64Rounded_range hnum hden).1
  have hlower : f64Exponent num' den' = 0 ∨ 2 ^ 52 ≤ f64Rounded num' den' := (f64Rounded_range hnum' hden').2
  obtain hlt | heq := Nat.lt_or_eq_of_le (f64Exponent_le_of_quotient_le hnum hden hden' h)
  · omega
  · have hsig : f64Rounded num den ≤ f64Rounded num' den' := by
      rw [f64Rounded, f64Rounded, f64Significand_eq, f64Significand_eq, heq]
      generalize 1074 = S
      refine roundHalfEven_le_of_quotient_le (Nat.mul_pos hden (Nat.two_pow_pos _))
        (Nat.mul_pos hden' (Nat.two_pow_pos _)) ?_
      rw [Nat.mul_mul_mul_comm, Nat.mul_mul_mul_comm num', Nat.mul_comm (2 ^ S)]
      exact Nat.mul_le_mul_right _ h
    omega

end

theorem f64_toNat_of_ne_zero {num : Nat} (hnum : num ≠ 0) (den : Nat) : (f64 num den).toNat = f64Image num den := by
  have hle : f64Image num den ≤ 0x7FF0000000000000 := Nat.min_le_right _ _
  rw [f64, if_neg hnum, BitVec.toNat_ofNat]
  omega

/-- `f64` is monotone in the quotient (R183). -/
theorem f64_le_of_quotient_le {num den num' den' : Nat} (hden : 0 < den) (hden' : 0 < den')
    (h : num * den' ≤ num' * den) : f64 num den ≤ f64 num' den' := by
  rw [BitVec.le_def]
  by_cases hnum : num = 0
  · rw [hnum, f64_zero]
    exact Nat.zero_le _
  · rw [f64_toNat_of_ne_zero hnum, f64_toNat_of_ne_zero (quotient_ne_zero_of_le hnum hden' h)]
    exact f64Image_le_of_quotient_le hnum hden hden' h

/-- `f64` depends on the quotient alone. -/
theorem f64_eq_of_quotient_eq {num den num' den' : Nat} (hden : 0 < den) (hden' : 0 < den')
    (h : num * den' = num' * den) : f64 num den = f64 num' den' :=
  BitVec.le_antisymm (f64_le_of_quotient_le hden hden' (Nat.le_of_eq h))
    (f64_le_of_quotient_le hden' hden (Nat.le_of_eq h.symm))

/-! ## The period -/

@[simp] theorem periodOf_self (cfg : Config) (m : Word) : periodOf cfg m m = 0 := by
  simp [periodOf, periodNumerator]

/-- Settles O58: a smaller remaining count is a larger quotient. -/
theorem periodIsMonotone : Obligations.PeriodIsMonotone := by
  intro cfg m r r' hclock hr _
  have hcount : m.toNat - r'.toNat ≤ m.toNat - r.toNat := Nat.sub_le_sub_left (BitVec.le_def.mp hr) _
  exact f64_le_of_quotient_le hclock hclock
    (Nat.mul_le_mul_right _ (Nat.mul_le_mul_right _ (Nat.mul_le_mul_right _ hcount)))

/-- With the default parameters a count is 0.016 microseconds (R180). -/
theorem periodOf_reference {cfg : Config} (hclock : cfg.clockRate = 125000000) (hscale : cfg.usPerS = 1000000)
    (m r : Word) : periodOf cfg m r = f64 ((m.toNat - r.toNat) * 2) 125 := by
  rw [periodOf, periodNumerator, hclock, hscale]
  exact f64_eq_of_quotient_eq (by decide) (by decide) (Nat.mul_assoc _ _ _)

/-- With the default clock a microsecond of the timeout is 62.5 counts (R142, R180). -/
theorem maxCounterOf_reference {cfg : Config} (hclock : cfg.clockRate = 125000000) (timeout : Word64) :
    maxCounterOf cfg timeout = timeout.toNat * 125 / 2 := by
  rw [maxCounterOf, hclock, Config.armDivisor]
  omega

/-- The image of 0.016, the period of one count (R180). -/
theorem f64_one_count : f64 2 125 = 0x3F90624DD2F1A9FC := by decide

/-- Settles O59: one count is 0.016, the most counts are `2 ^ 32 - 1`, and a period lies between their images. -/
theorem periodIsZeroOrNormal : Obligations.PeriodIsZeroOrNormal := by
  intro cfg m r hclock hscale hr
  have hrange : r ≠ m → 0x3F90624DD2F1A9FC ≤ periodOf cfg m r ∧ periodOf cfg m r ≤ f64 ((2 ^ 32 - 1) * 2) 125 := by
    intro hne
    have hcount : 1 ≤ m.toNat - r.toNat ∧ m.toNat - r.toNat ≤ 2 ^ 32 - 1 := by bv_omega
    rw [periodOf_reference hclock hscale, ← f64_one_count]
    exact ⟨f64_le_of_quotient_le (by decide) (by decide) (by omega),
      f64_le_of_quotient_le (by decide) (by decide) (by omega)⟩
  refine ⟨⟨fun hzero => ?_, fun heq => by rw [heq, periodOf_self]⟩, hrange⟩
  refine Decidable.byContradiction fun hne => ?_
  obtain ⟨hlower, -⟩ := hrange hne
  rw [hzero] at hlower
  exact absurd hlower (by decide)

/-- Settles O60: an odd timeout loses half a count to the division, which is 0.008. -/
theorem periodCornerValues : Obligations.PeriodCornerValues := by
  intro cfg timeout m hclock hscale hm
  rw [maxCounterOf_reference hclock] at hm
  have hfull : periodOf cfg m 0 = f64 (m.toNat * 2) 125 := periodOf_reference hclock hscale m 0
  refine ⟨periodOf_self cfg m, fun heven => ?_, fun hodd => ?_, fun hpos => ?_⟩
  · rw [hfull]
    exact f64_eq_of_quotient_eq (by decide) (by decide) (by omega)
  · rw [hfull, show m.toNat * 2 = 125 * timeout.toNat - 1 by omega]
  · rw [periodOf_reference hclock hscale, show m.toNat - (m - 1).toNat = 1 by bv_omega]

end Sys2Proof.Machine
end

section
/-! A service that finds no value to read (spec 43_collaborator.md R200, 60_exceptions.md R224): F_EMPTY on the first read
or on the second, by the demultiplexer or by an idle block. -/

namespace Sys2Proof.Machine

/-- The first read finds nothing, with its frame (R200, R224). -/
theorem onCapture_cut_noWord {sid : Sid} {s : State}
    (hf : (s.chan (slot (s.session sid).bank (s.session sid).channel)).fifo = []) :
    CaptureCut 3 sid (s.session sid).bank (s.session sid).channel { s.session sid with wd := .idle }
      (s.chan (slot (s.session sid).bank (s.session sid).channel))
      [.readValue (s.session sid).bank (s.session sid).channel none] s (onCapture sid s) := by
  obtain ⟨session, fault, channel, calls⟩ := onCapture_empty hf
  exact onCapture_cut fault session channel calls

/-- The second read finds nothing, with its frame (R200, R224). -/
theorem onCapture_cut_oneWord {sid : Sid} {s : State} {v1 : Word}
    (hf : (s.chan (slot (s.session sid).bank (s.session sid).channel)).fifo = [v1]) :
    CaptureCut 3 sid (s.session sid).bank (s.session sid).channel
      { s.session sid with direction := !v1.getLsbD 0, wd := .idle }
      { s.chan (slot (s.session sid).bank (s.session sid).channel) with fifo := [] }
      [.readValue (s.session sid).bank (s.session sid).channel (some v1),
       .readValue (s.session sid).bank (s.session sid).channel none] s (onCapture sid s) := by
  obtain ⟨session, fault, channel, calls⟩ := onCapture_oneWord hf
  exact onCapture_cut fault session channel calls

/-- Settles O34: the demultiplexer and the idle block run the owner's `on_capture`, cut at its first or its second
read. -/
theorem readWithNothingToReadIsFatal : Obligations.ReadWithNothingToReadIsFatal := by
  rintro s sid _ _ running idle pend owned rfl rfl
  refine ⟨fun ag agenda => ?_, fun agenda first => ?_⟩
  · have served := step_serve_owned running owned idle agenda pend
    exact ⟨fun queue => ⟨_, served, onCapture_cut_noWord (s := setAgenda ag s) queue⟩,
      fun v1 queue => ⟨_, served, onCapture_cut_oneWord (s := setAgenda ag s) queue⟩⟩
  · have served := step_settle_owned running owned idle agenda first
    exact ⟨fun queue => ⟨_, served, onCapture_cut_noWord queue⟩,
      fun v1 queue => ⟨_, served, onCapture_cut_oneWord queue⟩⟩

end Sys2Proof.Machine
end

section
/-! In the closed system, with the collaborator in contract, no step raises a fatal fault (spec 43_collaborator.md R203,
R207; 60_exceptions.md R232): the contract slot by slot, and what each event, and each instruction, does to it. -/

namespace Sys2Proof.Machine

/-! ## The contract of one slot -/

/-- What `ContractInv` says of the slot `i`. -/
structure SlotInContract (s : State) (i : Slot) : Prop where
  owned : ∀ sid, s.ownerAt i = some sid → ChannelInContract (s.session sid).maxCounter (s.chan i)
  free : s.ownerAt i = none → (s.chan i).armed = none ∧ (s.chan i).irqFlag = false

theorem SlotInContract.frame {s t : State} {i : Slot} (h : SlotInContract s i) (owner : t.ownerAt i = s.ownerAt i)
    (chan : t.chan i = s.chan i)
    (count : ∀ sid, s.ownerAt i = some sid → (t.session sid).maxCounter = (s.session sid).maxCounter) :
    SlotInContract t i where
  owned sid ho := by
    rw [owner] at ho
    rw [chan, count sid ho]
    exact h.owned sid ho
  free ho := by
    rw [owner] at ho
    rw [chan]
    exact h.free ho

/-- A slot is in contract when its owner's channel is. -/
theorem slotInContract_of_owned {s : State} {i : Slot} {sid : Sid} (owned : s.ownerAt i = some sid)
    (h : ChannelInContract (s.session sid).maxCounter (s.chan i)) : SlotInContract s i where
  owned x hx := by
    cases owned.symm.trans hx
    exact h
  free hn := by
    cases owned.symm.trans hn

/-- A block that is not halted, with every slot in contract. -/
structure FaultFree (s : State) : Prop where
  running : Running s
  slots : ∀ i, SlotInContract s i

theorem faultFree_iff (s : State) : FaultFree s ↔ Running s ∧ ContractInv s :=
  ⟨fun h => ⟨h.running, fun i => (h.slots i).owned, fun i => (h.slots i).free⟩,
    fun h => ⟨h.1, fun i => ⟨h.2.ownedChannel i, h.2.freeChannel i⟩⟩⟩

/-- What touches no owner, no channel, no FAULT, and no count of a slot's owner keeps the contract. -/
theorem FaultFree.frame {s t : State} (h : FaultFree s) (fault : t.fault = s.fault)
    (owner : ∀ i, t.ownerAt i = s.ownerAt i) (chan : ∀ i, t.chan i = s.chan i)
    (count : ∀ i sid, s.ownerAt i = some sid → (t.session sid).maxCounter = (s.session sid).maxCounter) :
    FaultFree t where
  running := (congrArg FaultReg.halted fault).trans h.running
  slots i := (h.slots i).frame (owner i) (chan i) (count i)

theorem FaultFree.prepared {s u : State} (h : FaultFree s) (hu : Prepared s u) : FaultFree u :=
  h.frame hu.fault hu.ownerAt hu.chan fun _ sid _ => by rw [hu.session]

theorem FaultFree.asked {s t : State} (h : FaultFree s) (ha : Asked s t) : FaultFree t :=
  h.frame ha.fault ha.ownerAt ha.chan fun _ sid _ => by rw [ha.session]

theorem FaultFree.respond {s : State} (h : FaultFree s) (ws : List Word) : FaultFree (respond ws s) :=
  h.frame rfl (fun _ => rfl) (fun _ => rfl) fun _ _ _ => rfl

theorem FaultFree.refuse {s : State} (h : FaultFree s) (code : RefuseCode) : FaultFree (refuse code s) :=
  h.frame rfl (fun _ => rfl) (fun _ => rfl) fun _ _ _ => rfl

/-- A session that owns no slot may be written freely. -/
theorem FaultFree.setSession_unowned {s : State} {sid : Sid} (h : FaultFree s) (unowned : ∀ i, s.ownerAt i ≠ some sid)
    (u : Session) : FaultFree (setSession sid u s) := by
  refine h.frame rfl (fun _ => rfl) (fun _ => rfl) fun i x owned => ?_
  have hne : x ≠ sid := by
    rintro rfl
    exact unowned i owned
  rw [setSession_session_ne s hne]

/-- After RESET no slot is owned, and every channel is disarmed with no flag (R50, R252). -/
theorem faultFree_resetBlock (s : State) : FaultFree (resetBlock s) where
  running := rfl
  slots i :=
    { owned := fun sid ho => by
        rw [resetBlock_ownerAt] at ho
        cases ho
      free := fun _ => by
        rw [resetBlock_chan]
        exact ⟨rfl, rfl⟩ }

/-! ## A capture in contract (R203) -/

theorem armed_of_captureInContract {b : Bank} {c : Chan} {d r : Word} {s : State}
    (h : captureInContract b c d r s = true) : ∃ count, (s.chan (slot b c)).armed = some count ∧ r ≤ count := by
  unfold captureInContract at h
  split at h
  · rename_i count armed
    rw [Bool.and_eq_true, decide_eq_true_eq, decide_eq_true_eq] at h
    exact ⟨count, armed, h.2⟩
  · cases h

/-- A channel that is armed is owned, armed with its owner's count, and has nothing to read (R205). -/
theorem FaultFree.of_armed {s : State} {i : Slot} {count : Word} (h : FaultFree s)
    (armed : (s.chan i).armed = some count) :
    ∃ sid, s.ownerAt i = some sid ∧ (s.session sid).maxCounter = count ∧ (s.chan i).fifo = [] := by
  cases owner : s.ownerAt i with
  | none => rw [((h.slots i).free owner).1] at armed; cases armed
  | some sid =>
    obtain ⟨count', -, queue⟩ | ⟨disarmed, -⟩ := (h.slots i).owned sid owner
    · exact ⟨sid, rfl, Option.some.inj (count'.symm.trans armed), queue⟩
    · rw [disarmed] at armed; cases armed

/-- A channel with a flag is owned, and the two words of one capture wait there, the count in range. -/
theorem FaultFree.of_flagged {s : State} {i : Slot} (h : FaultFree s) (flag : (s.chan i).irqFlag = true) :
    ∃ sid d r, s.ownerAt i = some sid ∧ (s.chan i).fifo = [d, r] ∧ r ≤ (s.session sid).maxCounter := by
  cases owner : s.ownerAt i with
  | none => rw [((h.slots i).free owner).2] at flag; cases flag
  | some sid =>
    obtain ⟨-, unflagged, -⟩ | ⟨-, -, d, r, queue, inRange⟩ := (h.slots i).owned sid owner
    · rw [unflagged] at flag; cases flag
    · exact ⟨sid, d, r, rfl, queue, inRange⟩

/-- A capture in contract leaves its two words alone in the queue of an owned channel. -/
theorem FaultFree.captured {s : State} {b : Bank} {c : Chan} {d r : Word} (h : FaultFree s)
    (inContract : captureInContract b c d r s = true) : FaultFree (captured b c d r s) where
  running := h.running
  slots i := by
    by_cases hi : i = slot b c
    · obtain ⟨count, armed, inRange⟩ := armed_of_captureInContract inContract
      obtain ⟨sid, owned, rfl, queue⟩ := h.of_armed armed
      subst hi
      refine slotInContract_of_owned owned (.inr ?_)
      rw [captured_chan_same, queue]
      exact ⟨rfl, rfl, d, r, rfl, inRange⟩
    · exact (h.slots i).frame rfl (captured_chan_ne hi d r s) fun _ _ => rfl

/-! ## Services -/

/-- No service or expiry writes the count a channel is armed with (R26). -/
theorem Served.maxCounter {sid : Sid} {i : Slot} {s t : State} (h : Served sid i s t) (x : Sid) :
    (t.session x).maxCounter = (s.session x).maxCounter := by
  by_cases hx : x = sid
  · obtain ⟨d, p, w, e⟩ := h.session
    rw [hx, e]
  · rw [h.others x hx]

/-- The owner of a flagged channel reads its two words, clears the flag and arms the channel again (R174). -/
theorem FaultFree.onCapture {s : State} {sid : Sid} {d r : Word} (h : FaultFree s)
    (owned : s.ownerAt (slotOf s sid) = some sid) (queue : (s.chan (slotOf s sid)).fifo = [d, r])
    (inRange : r ≤ (s.session sid).maxCounter) : FaultFree (onCapture sid s) := by
  have served := onCapture_served sid s
  obtain ⟨-, chan, fault, -⟩ := onCapture_ok queue (BitVec.not_lt.mpr inRange)
  have owner : ∀ i, (Machine.onCapture sid s).ownerAt i = s.ownerAt i := fun i => by
    simp only [State.ownerAt, served.owner]
  refine ⟨(congrArg FaultReg.halted fault).trans h.running, fun i => ?_⟩
  by_cases hi : i = slotOf s sid
  · subst hi
    refine slotInContract_of_owned ((owner _).trans owned) (.inl ?_)
    rw [served.maxCounter, slotOf, chan]
    exact ⟨rfl, rfl, rfl⟩
  · exact (h.slots i).frame (owner i) (served.chans i hi) fun x _ => served.maxCounter x

/-- Whatever capture is pending, its owner serves it without a fault (R181, R200, R232). -/
theorem FaultFree.serveCapture {s : State} {b : Bank} {c : Chan} (h : FaultFree s) (block : BlockInv s)
    (pend : pending b c s = true) : FaultFree (serveCapture b c s) := by
  have flag : (s.chan (slot b c)).irqFlag = true := (Bool.and_eq_true_iff.mp pend).1
  obtain ⟨sid, d, r, owned, queue, inRange⟩ := h.of_flagged flag
  have bound : slotOf s sid = slot b c := (block.ownerOf _ sid owned).2
  rw [serveCapture_owned owned]
  rw [← bound] at owned queue
  exact h.onCapture owned queue inRange

theorem FaultFree.onExpiry {s : State} (h : FaultFree s) (sid : Sid) : FaultFree (onExpiry sid s) :=
  h.frame (onExpiry_keeps sid s).1 (fun _ => rfl) (fun _ => rfl) fun _ x _ => (onExpiry_served sid 0 s).maxCounter x

/-! ## The instructions -/

/-- The invariants from which a step in contract is taken (R38, R39, R207). -/
structure InContract (s : State) : Prop where
  block : BlockInv s
  closed : ClosedInv s
  faultFree : FaultFree s

theorem InContract.prepared {s u : State} (h : InContract s) (hu : Prepared s u) (quiet : ArbQuiet s → ArbQuiet u) :
    InContract u where
  block := h.block.sameTables (hu.sameTables quiet) fun x => .inl (hu.session x)
  closed := h.closed.prepared hu
  faultFree := h.faultFree.prepared hu

/-- EV_CAPTURE of a capture in contract: the collaborator's part, then the service if its line is enabled (R94). -/
theorem InContract.captureAndServe {s : State} {b : Bank} {c : Chan} {d r : Word} (h : InContract s)
    (inContract : captureInContract b c d r s = true) : FaultFree (captureAndServe b c d r s) := by
  have arrived := h.faultFree.captured inContract
  unfold Machine.captureAndServe
  dsimp only
  split
  · rename_i pend
    exact arrived.serveCapture (h.block.sameTables (sameTables_captured b c d r s) fun _ => .inl rfl) pend
  · exact arrived

/-- A session that is constructed owns no slot yet, so no channel is armed with its count. -/
theorem InContract.construct {s : State} {sid : Sid} (h : InContract s) (absent : (s.session sid).fsm = .absent)
    (pin : Word) (timeout : Word64) : FaultFree (construct sid pin timeout s) := by
  obtain ⟨-, e⟩ | ⟨-, e⟩ := construct_cases sid pin timeout s
  · rw [e]
    exact h.faultFree.refuse .range
  · rw [e]
    refine (h.faultFree.setSession_unowned (fun i owned => ?_) _).respond [0]
    rw [(h.block.ownerOf i sid owned).1] at absent
    cases absent

/-- INIT empties the queue of the channel it is given and arms it with its session's count (R144). -/
theorem FaultFree.initSlot {s : State} {b : Bank} {c : Chan} (h : FaultFree s) (sid : Sid)
    (answer : reserveAnswer b s = some c.toNat) (free : s.ownerAt (slot b c) = none) (off : Word) :
    FaultFree (initSlot sid b c off (claimed b c sid s)) := by
  obtain ⟨-, owner, -, fault, -⟩ := initSlot_keeps sid b c off (claimed b c sid s)
  obtain ⟨chan, chans, -, -⟩ := initSlot_collab sid b c off (claimed b c sid s)
  have owners : ∀ i, (Machine.initSlot sid b c off (claimed b c sid s)).ownerAt i =
      if i = slot b c then some sid else s.ownerAt i := fun i => by
    rw [← claimed_ownerAt, State.ownerAt, owner, State.ownerAt]
  have count : ∀ x, ((Machine.initSlot sid b c off (claimed b c sid s)).session x).maxCounter =
      (s.session x).maxCounter := fun x => by
    by_cases hx : x = sid
    · rw [hx, initSlot_session, claimed_session]
    · rw [initSlot_session_ne hx, claimed_session]
  refine ⟨?_, fun i => ?_⟩
  · rw [Running, fault, (claimed_keeps b c sid s).2.2.1]
    exact h.running
  · by_cases hi : i = slot b c
    · subst hi
      refine slotInContract_of_owned ((owners _).trans (if_pos rfl)) (.inl ?_)
      rw [count, chan, claimed_chan sid answer, if_pos rfl, claimed_session]
      exact ⟨rfl, ((h.slots _).free free).2, rfl⟩
    · exact (h.slots i).frame ((owners i).trans (if_neg hi))
        ((chans i hi).trans ((claimed_chan sid answer i).trans (if_neg hi))) fun x _ => count x

/-- In the closed system `allocate` never asks for a channel it may not have (R115). -/
theorem InContract.initSession {s : State} (h : InContract s) (sid : Sid) : FaultFree (initSession sid s) := by
  unfold Machine.initSession
  obtain ⟨s0, b, c, asked, answer, free, -, e⟩ | ⟨s0, asked, e⟩ | ⟨s0, b, n, asked, answer, bad, e⟩ :=
    allocate_spec sid none s
  · rw [e]
    rw [← asked.ownerAt] at free
    exact ((h.faultFree.asked asked).initSlot sid answer free _).respond [0]
  · rw [e]
    exact (h.faultFree.asked asked).respond _
  · rw [← asked.ownerAt] at bad
    exact absurd ((h.closed.asked asked).answer_free answer) bad

theorem FaultFree.sessionCommand {sid : Sid} {allowed : List Fsm} {s k t : State} (h : FaultFree s)
    (ht : sessionCommand sid allowed s k = .next t) (hk : (s.session sid).fsm ∈ allowed → FaultFree k) :
    FaultFree t := by
  obtain ⟨-, ⟨code, rfl⟩ | ⟨rfl, -, -, hf⟩⟩ := sessionCommand_next ht
  · exact h.refuse code
  · exact hk hf

theorem FaultFree.queryCommand {answer : Word} {s t : State} (h : FaultFree s)
    (ht : queryCommand answer s = .next t) : FaultFree t := by
  obtain ⟨-, ht⟩ := whenRunning_next s ht
  split at ht <;> cases ht
  · exact h.refuse .port
  · exact h.respond [answer]

theorem FaultFree.allocCommand {sid : Sid} {pref : Option Bank} {s t : State} (h : FaultFree s) (port : s.port ≠ .arb)
    (ht : allocCommand sid pref s = .next t) : FaultFree t := by
  obtain ⟨-, ht⟩ := whenRunning_next s ht
  rw [if_pos port] at ht
  cases ht
  exact h.refuse .port

/-- No instruction from outside the ARB port faults, where an EV_CAPTURE is a capture in contract. -/
theorem InContract.exec {i : Instr} {s t : State} (h : InContract s) (port : s.port ≠ .arb)
    (captures : ∀ b c d r, i = .evCapture b c d r → captureInContract b c d r s = true) (ht : exec i s = .next t) :
    FaultFree t := by
  have safe := h.faultFree
  cases i with
  | construct sid pin timeout => exact safe.sessionCommand ht fun hf => h.construct (by simpa using hf) pin timeout
  | init sid => exact safe.sessionCommand ht fun _ => h.initSession sid
  | getdir sid => exact safe.sessionCommand ht fun _ => safe.respond _
  | getper sid => exact safe.sessionCommand ht fun _ => safe.respond _
  | getbank sid => exact safe.sessionCommand ht fun _ => safe.respond _
  | alloc sid => exact safe.allocCommand port ht
  | allocP sid pref => exact safe.allocCommand port ht
  | resolve b c => exact safe.queryCommand ht
  | bankuse b => exact safe.queryCommand ht
  | progoff b => exact safe.queryCommand ht
  | evCapture b c d r =>
    obtain rfl | ⟨-, e⟩ := stimulusCommand_next ht
    · exact safe.refuse .port
    · cases e
      exact h.captureAndServe (captures b c d r rfl)
  | evWdexp sid =>
    obtain rfl | ⟨-, e⟩ := stimulusCommand_next ht
    · exact safe.refuse .port
    · split at e <;> cases e
      exact safe.onExpiry sid
  | evTime now =>
    obtain rfl | ⟨-, e⟩ := stimulusCommand_next ht
    · exact safe.refuse .port
    · split at e <;> cases e
      exact safe.frame rfl (fun _ => rfl) (fun _ => rfl) fun _ _ _ => rfl

/-! ## The events -/

/-- Words in contract, taken from a port that is not ARB. -/
theorem InContract.takeCommand {p : Port} {ws : List Word} {s t : State} (h : InContract s) (hp : p ≠ .arb)
    (words : wordsInContract ws s = true) (ht : takeCommand p ws s = .next t) : FaultFree t := by
  obtain ⟨-, rfl | ⟨why, rest, -, rfl⟩ | ⟨i, rest, hd, ht⟩⟩ := takeCommand_next ht
  · exact h.faultFree.prepared (prepared_setRx p ws (.refl s))
  · exact (h.faultFree.prepared (prepared_setPort p (prepared_setRx p rest (.refl s)))).refuse .illegal
  · have hu := prepared_setPort p (prepared_setRx p rest (.refl s))
    refine (h.prepared hu fun hq => arbQuiet_setRx rest hp hq).exec hp ?_ ht
    rintro b c d r rfl
    have inContract : captureInContract b c d r s = true := by simpa only [wordsInContract, hd] using words
    rwa [captureInContract, hu.chan]

/-- The block left to itself, with words in contract at every port. -/
theorem InContract.settle {s t : State} (h : InContract s)
    (words : ∀ p, wordsInContract (s.rxAt p) s = true) (ht : settle s = .next t) : FaultFree t := by
  obtain ⟨-, ⟨i, pend, rfl⟩ | ⟨sid, -, rfl⟩ | ⟨p, ready, ht⟩ | rfl⟩ := settle_next ht
  · exact h.faultFree.serveCapture h.block pend
  · exact h.faultFree.onExpiry sid
  · refine h.takeCommand ?_ (words p) ht
    rintro rfl
    have empty : s.rxAt .arb = [] := h.block.arbIdle
    simp [commandReady, empty, decode] at ready
  · exact h.faultFree

/-- An event of the outside, in contract, from a state that has taken it from its agenda. -/
theorem InContract.perform {e : Event} {ag : List Event} {s t : State} (h : InContract s) (ha : s.agenda = e :: ag)
    (allowed : nextInContract s = true) (ht : perform e (setAgenda ag s) = .next t) : FaultFree t := by
  obtain ⟨hu, quiet⟩ := prepared_setAgenda ha
  have h' := h.prepared hu quiet
  unfold nextInContract at allowed
  simp only [ha] at allowed
  cases e with
  | port p ws =>
    refine h'.takeCommand ?_ allowed ht
    rintro rfl
    cases h.block.arbInternal (.port .arb ws) (ha ▸ List.mem_cons_self)
  | capture b c d r =>
    cases ht
    exact h'.faultFree.captured allowed
  | strayFlag b c => cases allowed
  | program b room off =>
    cases ht
    exact h'.faultFree.frame rfl (fun _ => rfl) (fun _ => rfl) fun _ _ _ => rfl
  | foreign call =>
    rw [Machine.perform, if_pos h'.closed.closed] at ht
    cases ht
  | serve b c =>
    obtain ⟨-, ht⟩ := whenRunning_next _ ht
    split at ht <;> cases ht
    rename_i enabled
    exact h'.faultFree.serveCapture h'.block enabled.1
  | reset =>
    cases ht
    exact faultFree_resetBlock _

/-- Settles O56: whatever is pending was captured in contract on an owned channel, and a closed collaborator gives only
free channels. -/
theorem noFatalFaultInContract : Obligations.NoFatalFaultInContract := by
  intro s t block closed contract running allowed ht
  have h : InContract s := ⟨block, closed, (faultFree_iff s).mpr ⟨running, contract⟩⟩
  rw [← faultFree_iff]
  rw [step_eq] at ht
  split at ht
  · rename_i ha
    refine h.settle (fun p => ?_) ht
    rw [nextInContract, ha] at allowed
    exact List.all_eq_true.mp allowed p (by cases p <;> decide)
  · exact h.perform ‹_› allowed ht

end Sys2Proof.Machine
end

section
/-! Captures and expiries against each other and against the time base: a capture that finds no owner or no enabled
line, one that cancels an expiry, one that comes at the instant of the deadline; and TIME_US, which only moves forwards
(spec 60_exceptions.md R228, R232, R234, R238, R240; 43_collaborator.md R203). -/

namespace Sys2Proof.Machine

/-! ## A slot no session owns (R232) -/

/-- Settles O35: the three ways of O31 come to `serve_capture`, which finds no owner. -/
theorem unownedCaptureIsFatal : Obligations.UnownedCaptureIsFatal := by
  intro s b c running unowned line
  refine ⟨fun d r port => ?_, fun flag idle => ⟨fun ag agenda => ?_, fun agenda first => ?_⟩⟩
  · refine ⟨_, (stimulusCommand_ready running port).trans ?_, captured_arrived b c d r s⟩
    rw [captureAndServe_enabled d r line, serveCapture_unowned (s := captured b c d r s) unowned]
    rfl
  · rw [step_serve running idle agenda (pending_of_flag_line flag line),
      serveCapture_unowned (s := setAgenda ag s) unowned]
    rfl
  · rw [step_settle_capture running idle agenda first, serveCapture_unowned unowned]
    rfl

/-! ## A capture that is not served (R203, R228) -/

/-- A capture event is the collaborator's own move, whatever the block does (R203). -/
theorem step_capture {s : State} {b : Bank} {c : Chan} {d r : Word} {ag : List Event}
    (agenda : s.agenda = .capture b c d r :: ag) : step s = .next (captured b c d r (setAgenda ag s)) := by
  rw [step_eq, agenda]
  rfl

/-- Settles O36: the collaborator's part of a capture is all that happens, as an event of its own or before a service
that does not come about. -/
theorem disabledLineIsNotServed : Obligations.DisabledLineIsNotServed := by
  refine ⟨fun s b c d r ag agenda => ?_, fun s b c d r running port line => ?_⟩
  · obtain ⟨channel, channels, banks, answers, draws⟩ := captured_arrived b c d r (setAgenda ag s)
    exact ⟨_, step_capture agenda, channel, channels, banks, answers, draws⟩
  · obtain ⟨channel, channels, banks, answers, draws⟩ := captured_arrived b c d r s
    refine ⟨_, (stimulusCommand_ready running port).trans (by rw [captureAndServe_disabled d r line]), channel,
      channels, banks, ?_⟩
    exact ⟨rfl, rfl, rfl, rfl, rfl, rfl, rfl, rfl, rfl, rfl, rfl, answers, draws⟩

/-! ## A capture and the expiry of the same session (R234, R238) -/

/-- Settles O40: the flag is raised at the instant the deadline names. -/
theorem sameInstantCaptureGoesFirst : Obligations.SameInstantCaptureGoesFirst := by
  intro s sid d r ag wd line agenda
  have pend : pending (s.session sid).bank (s.session sid).channel (captured _ _ d r (setAgenda ag s)) = true :=
    (captured_pending _ _ d r (setAgenda ag s)).trans line
  refine ⟨_, step_capture agenda, pend, Bool.eq_false_iff.mpr fun enabled => ?_⟩
  obtain ⟨deadline, wd', -, -, notReady⟩ := (expiryEnabled_iff sid _).mp enabled
  obtain rfl : s.timeUs = deadline := Watchdog.pending.inj (wd.symm.trans wd')
  have flagTime := congrArg Channel.flagTime (captured_chan_same (s.session sid).bank (s.session sid).channel d r
    (setAgenda ag s))
  have ready := (captureReadyAt_iff sid s.timeUs (captured _ _ d r (setAgenda ag s))).mpr ⟨pend, flagTime⟩
  exact Bool.false_ne_true (notReady.symm.trans ready)

/-- `on_capture` leaves the watchdog cancelled, where a fatal fault cuts it, or started anew (R171, R174, R224). -/
theorem onCapture_wd (sid : Sid) (s : State) :
    ((onCapture sid s).session sid).wd = .idle ∨
      ((onCapture sid s).session sid).wd = .pending (deadlineOf s.timeUs (s.session sid).timeoutUs) := by
  match queue : (s.chan (slot (s.session sid).bank (s.session sid).channel)).fifo with
  | [] => exact .inl (by rw [(onCapture_empty queue).1])
  | [v1] => exact .inl (by rw [(onCapture_oneWord queue).1])
  | v1 :: v2 :: rest =>
    by_cases above : (s.session sid).maxCounter < v2
    · exact .inl (by rw [(onCapture_range queue above).1])
    · exact .inr (by rw [(onCapture_ok queue above).1])

/-- Settles O39: the watchdog is idle, or pending with a deadline that no earlier time reaches. -/
theorem captureCancelsTheExpiry : Obligations.CaptureCancelsTheExpiry := by
  intro s t sid b c d r now port owned line fits run early
  obtain rfl : onCapture sid (captured b c d r s) = t :=
    Host.Outcome.next.inj ((exec_evCapture_owned (exec_next_running run) owned port line d r).symm.trans run)
  refine Bool.eq_false_iff.mpr fun enabled => ?_
  obtain ⟨deadline, wd, -, due, -⟩ := (expiryEnabled_iff sid _).mp enabled
  obtain idle | restarted := onCapture_wd sid (captured b c d r s)
  · cases idle.symm.trans wd
  · obtain rfl : s.timeUs + (s.session sid).timeoutUs = deadline := Watchdog.pending.inj (restarted.symm.trans wd)
    have reached : (s.timeUs + (s.session sid).timeoutUs).toNat ≤ now.toNat := due
    rw [BitVec.toNat_add, Nat.mod_eq_of_lt fits] at reached
    omega

/-! ## The time base (R240) -/

/-- Settles O41: EV_TIME is a stimulus command with one condition. -/
theorem timeOnlyForwards : Obligations.TimeOnlyForwards :=
  fun _ _ running port =>
    ⟨fun forwards => (stimulusCommand_ready running port).trans (if_pos forwards),
      fun back => (stimulusCommand_ready running port).trans (if_neg (BitVec.not_le.mpr back))⟩

/-- EV_TIME moves TIME_US forwards, and the other instructions keep it. -/
theorem Effect.timeUs_le {s t : State} (h : Effect s t) : s.timeUs ≤ t.timeUs := by
  cases h with
  | refused | answered | constructed | captured | capturedUnresolved => exact BitVec.le_refl _
  | allocFailed s0 ws asked => exact BitVec.le_of_eq asked.timeUs.symm
  | arbitration s0 b n asked => simp [reserveAsked_keeps, asked.timeUs]
  | allocated s0 b c sid ws _ asked => simp [claimed_keeps, asked.timeUs]
  | initialized s0 b c sid _ _ asked => simp [initSlot_keeps, claimed_keeps, asked.timeUs]
  | capturedServed b c d r sid => exact BitVec.le_of_eq (onCapture_served sid (Machine.captured b c d r s)).timeUs.symm
  | expired sid => exact BitVec.le_of_eq (onExpiry_served sid 0 s).timeUs.symm
  | timed _ forwards => exact forwards

/-- Settles O42: an instruction runs at the time the step begins, and whatever else a step does keeps TIME_US, RESET
included. -/
theorem stepNeverTurnsTimeBack : Obligations.StepNeverTurnsTimeBack := by
  intro s t h
  cases step_effect h with
  | waited _ prepared => exact BitVec.le_of_eq prepared.timeUs.symm
  | ran u _ prepared _ _ _ effect => exact prepared.timeUs ▸ effect.timeUs_le
  | expired sid => exact BitVec.le_of_eq (onExpiry_served sid 0 s).timeUs.symm
  | served u _ _ sid prepared => exact BitVec.le_of_eq ((onCapture_served sid u).timeUs.trans prepared.timeUs).symm
  | unresolved u _ _ prepared => exact BitVec.le_of_eq prepared.timeUs.symm
  | environment u k prepared => exact BitVec.le_of_eq prepared.timeUs.symm
  | reset u prepared => exact BitVec.le_of_eq prepared.timeUs.symm

end Sys2Proof.Machine
end

section
/-! What does not happen: a halted block takes no step (spec 60_exceptions.md R225), and a command at the HOST port
writes no measurement (R245). -/

namespace Sys2Proof.Machine

/-! ## The halted block (R225) -/

/-- What is not a RESET and still gives a next state on a halted block is a move of the outside, and leaves the block's
own state as it was. -/
theorem StepEffect.halted_keeps {s t : State} (h : StepEffect s t) (halted : s.fault.halted = true)
    (noReset : nextIsReset s = false) :
    t.fault = s.fault ∧ t.owner = s.owner ∧ t.offset = s.offset ∧ t.sessions = s.sessions ∧ t.calls = s.calls ∧
      t.responses = s.responses := by
  have notRunning : s.fault.halted ≠ false := by rw [halted]; decide
  cases h with
  | waited _ prepared =>
    exact ⟨prepared.fault, prepared.owner, prepared.offset, prepared.sessions, prepared.calls, prepared.responses⟩
  | environment u k prepared =>
    exact ⟨prepared.fault, prepared.owner, prepared.offset, prepared.sessions, prepared.calls, prepared.responses⟩
  | ran _ _ _ running | expired _ running | served _ _ _ _ _ running | unresolved _ _ _ _ running =>
    exact absurd running notRunning
  | reset _ _ _ isReset => cases noReset.symm.trans isReset

/-- Settles O8: every entry of the block is guarded by `whenRunning`, and what is left are moves of the outside. -/
theorem haltedBlockTakesNoStep : Obligations.HaltedBlockTakesNoStep := by
  intro s halted
  refine ⟨fun i => exec_halted halted, fun p ws ag agenda => ?_, fun b c ag agenda => ?_, fun agenda => ?_,
    fun t h noReset => (step_effect h).halted_keeps halted noReset⟩
  · rw [step_port agenda]
    exact whenRunning_halted (setAgenda ag s) halted
  · rw [step_eq, agenda]
    exact whenRunning_halted (setAgenda ag s) halted
  · rw [step_eq, agenda]
    exact whenRunning_halted s halted

/-! ## Commands at the HOST port (R245) -/

/-- `t` has the time, the periods, the directions and the Initialized sessions of `s`. -/
structure KeepsMeasurements (s t : State) : Prop where
  timeUs : t.timeUs = s.timeUs
  session : ∀ sid, (t.session sid).periodUs = (s.session sid).periodUs ∧
    (t.session sid).direction = (s.session sid).direction ∧
    ((s.session sid).fsm = .initialized → t.session sid = s.session sid)

theorem keepsMeasurements_of_sessions {s t : State} (timeUs : t.timeUs = s.timeUs)
    (sessions : ∀ x, t.session x = s.session x) : KeepsMeasurements s t :=
  ⟨timeUs, fun x => by simp [sessions x]⟩

/-- One session may be written that is not Initialized, but for its period and its direction. -/
theorem keepsMeasurements_of_one {s t : State} {sid : Sid} (timeUs : t.timeUs = s.timeUs)
    (notYet : (s.session sid).fsm ≠ .initialized) (period : (t.session sid).periodUs = (s.session sid).periodUs)
    (direction : (t.session sid).direction = (s.session sid).direction)
    (others : ∀ x, x ≠ sid → t.session x = s.session x) : KeepsMeasurements s t := by
  refine ⟨timeUs, fun x => ?_⟩
  by_cases hx : x = sid
  · rw [hx]
    exact ⟨period, direction, fun h => absurd h notYet⟩
  · simp [others x hx]

theorem keepsMeasurements_respond (ws : List Word) (s : State) : KeepsMeasurements s (respond ws s) :=
  keepsMeasurements_of_sessions rfl fun _ => rfl

theorem sessionCommand_keepsMeasurements {sid : Sid} {allowed : List Fsm} {s k t : State}
    (h : sessionCommand sid allowed s k = .next t) (hk : (s.session sid).fsm ∈ allowed → KeepsMeasurements s k) :
    KeepsMeasurements s t := by
  obtain ⟨-, ⟨code, rfl⟩ | ⟨rfl, -, -, hf⟩⟩ := sessionCommand_next h
  · exact keepsMeasurements_of_sessions rfl fun _ => rfl
  · exact hk hf

theorem construct_keepsMeasurements {sid : Sid} {s : State} (pin : Word) (timeout : Word64)
    (absent : (s.session sid).fsm = .absent) : KeepsMeasurements s (construct sid pin timeout s) := by
  obtain ⟨-, e⟩ | ⟨-, e⟩ := construct_cases sid pin timeout s <;> rw [e]
  · exact keepsMeasurements_of_sessions rfl fun _ => rfl
  · exact keepsMeasurements_of_one (sid := sid) rfl (by simp [absent]) (by simp) (by simp)
      fun x hx => setSession_session_ne s hx _

theorem initSession_keepsMeasurements {sid : Sid} {s : State} (uninit : (s.session sid).fsm = .uninitialized) :
    KeepsMeasurements s (initSession sid s) := by
  unfold initSession
  obtain ⟨s0, b, c, asked, -, -, -, e⟩ | ⟨s0, asked, e⟩ | ⟨s0, b, n, asked, -, -, e⟩ := allocate_spec sid none s <;>
    simp only [e]
  · have own (x : Sid) : (claimed b c sid s0).session x = s.session x :=
      (claimed_session b c sid s0 x).trans (asked.session x)
    refine keepsMeasurements_of_one (sid := sid) ?_ (by simp [uninit]) ?_ ?_ fun x hx => ?_
    · simp [initSlot_keeps, claimed_keeps, asked.timeUs]
    · simp [initSlot_session, own]
    · simp [initSlot_session, own]
    · simp [initSlot_session_ne hx, own]
  · exact keepsMeasurements_of_sessions asked.timeUs asked.session
  · refine keepsMeasurements_of_sessions ?_ fun x => ?_
    · simp [reserveAsked_keeps, asked.timeUs]
    · simp [State.session, reserveAsked_keeps, asked.sessions]

/-- Every instruction at the HOST port: the arbiter's and the stimulus words are refused there, the queries and the
accessors only answer, and CONSTRUCT and INIT write a session that is not Initialized yet. -/
theorem exec_host_keepsMeasurements {i : Instr} {s t : State} (port : s.port = .host) (h : exec i s = .next t) :
    KeepsMeasurements s t := by
  have running := exec_next_running h
  have query : ∀ {answer}, queryCommand answer s = .next t → KeepsMeasurements s t := fun {answer} h => by
    cases (queryCommand_ready running (.inl port) answer).symm.trans h
    exact keepsMeasurements_respond _ s
  have refused : acceptedOn i .host = false → KeepsMeasurements s t := fun no => by
    cases (wrongPortRefused i s running (port ▸ no)).symm.trans h
    exact keepsMeasurements_of_sessions rfl fun _ => rfl
  cases i with
  | construct sid pin timeout =>
    exact sessionCommand_keepsMeasurements h fun hf => construct_keepsMeasurements pin timeout (List.mem_singleton.1 hf)
  | init sid =>
    exact sessionCommand_keepsMeasurements h fun hf => initSession_keepsMeasurements (List.mem_singleton.1 hf)
  | getdir | getper | getbank => exact sessionCommand_keepsMeasurements h fun _ => keepsMeasurements_respond _ s
  | resolve | bankuse | progoff => exact query h
  | alloc | allocP | evCapture | evWdexp | evTime => exact refused rfl

/-- Settles O44: what `exec_host_keepsMeasurements` says of every instruction. -/
theorem hostCannotWriteMeasurements : Obligations.HostCannotWriteMeasurements := by
  intro i s t port h
  obtain ⟨timeUs, session⟩ := exec_host_keepsMeasurements port h
  exact ⟨timeUs, session⟩

end Sys2Proof.Machine
end

section
/-! The reference order of an idle block left to itself (spec 60_exceptions.md R233): each of the three searches of
`serveNext` goes through a list in ascending order and finds the least. -/

namespace Sys2Proof.Machine

/-- In a list in ascending order of rank, a search finds the element of least rank that it looks for. -/
theorem find?_eq_some_of_least {α : Type} {l : List α} {p : α → Bool} {a : α} (rank : α → Nat)
    (ascending : l.Pairwise fun x y => rank x < rank y) (mem : a ∈ l) (found : p a = true)
    (least : ∀ x, rank x < rank a → p x = false) : l.find? p = some a := by
  induction l with
  | nil => cases mem
  | cons x xs ih =>
    obtain ⟨below, ascending⟩ := List.pairwise_cons.mp ascending
    obtain rfl | mem := List.mem_cons.mp mem
    · exact List.find?_cons_of_pos found
    · rw [List.find?_cons_of_neg (Bool.eq_false_iff.mp (least x (below a mem)))]
      exact ih ascending mem

theorem find?_eq_none_of_false {α : Type} {l : List α} {p : α → Bool} (nowhere : ∀ x, p x = false) : l.find? p = none :=
  List.find?_eq_none.mpr fun x _ => Bool.eq_false_iff.mp (nowhere x)

/-- An idle block left to itself serves what comes next. -/
theorem step_settle_idle {s : State} (running : Running s) (idle : HostIdle s) (agenda : s.agenda = []) :
    step s = serveNext s := by
  rw [step_eq, agenda]
  exact (whenRunning_running s running).trans (if_neg (by rw [hostWaiting_false idle]; decide))

section
variable {s : State} (noCapture : ∀ i, pendingSlot s i = false)
include noCapture

/-- With no capture pending, the due watchdog of the lowest handle (R238). -/
theorem serveNext_expiry {sid : Sid} (due : expiryEnabled sid s = true)
    (lowest : ∀ x, x < sid → expiryEnabled x s = false) : serveNext s = .next (onExpiry sid s) := by
  have first : allSids.find? (fun sid => expiryEnabled sid s) = some sid :=
    find?_eq_some_of_least BitVec.toNat (by decide) (mem_allSids sid) due fun x hx => lowest x hx
  simp only [serveNext, find?_eq_none_of_false noCapture, first]

variable (noExpiry : ∀ sid, expiryEnabled sid s = false)
include noExpiry

/-- With no capture pending and no watchdog due, the command at the first port that holds one. -/
theorem serveNext_command {p : Port} (ready : commandReady p s = true)
    (first : ∀ q : Port, q.rank < p.rank → commandReady q s = false) : serveNext s = takeCommand p (s.rxAt p) s := by
  have found : [Port.host, Port.arb, Port.stimulus].find? (fun p => commandReady p s) = some p :=
    find?_eq_some_of_least Port.rank (by decide) (by cases p <;> decide) ready first
  simp only [serveNext, find?_eq_none_of_false noCapture, find?_eq_none_of_false noExpiry, found]

/-- With nothing to do, nothing (R247). -/
theorem serveNext_nothing (noCommand : ∀ p, commandReady p s = false) : serveNext s = .next s := by
  simp only [serveNext, find?_eq_none_of_false noCapture, find?_eq_none_of_false noExpiry,
    find?_eq_none_of_false noCommand]

end

/-- Settles O11: IRQ_ORDER is ascending, and each search of `serveNext` is made when the one before finds nothing. -/
theorem referenceServiceOrder : Obligations.ReferenceServiceOrder := by
  intro s running agenda idle order
  have noWait : hostWaiting s = false := hostWaiting_false idle
  refine ⟨fun i pend lowest => ?_, fun noCapture => ⟨fun sid due lowest => ?_, fun noExpiry => ⟨?_, ?_, ?_⟩⟩⟩
  · have first : s.cfg.irqOrder.find? (pendingSlot s) = some (slot (bankOf i) (chanOf i)) := by
      rw [slot_bankOf_chanOf, order]
      exact find?_eq_some_of_least BitVec.toNat (by decide) (mem_allSlots i) pend fun j hj => lowest j hj
    exact step_settle_capture running idle agenda first
  all_goals rw [step_settle_idle running idle agenda]
  · exact serveNext_expiry noCapture due lowest
  · intro p i rest first read
    rw [serveNext_command noCapture noExpiry (by rw [commandReady, read]) first, takeCommand_idle running (.inr noWait),
      read]
  · intro p why rest first read
    rw [serveNext_command noCapture noExpiry (by rw [commandReady, read]) first, takeCommand_idle running (.inr noWait),
      read]
    rfl
  · exact serveNext_nothing noCapture noExpiry

end Sys2Proof.Machine
end

section
/-! The contract at reset, and the largest timeout CONSTRUCT accepts (spec 70_reset_and_hazards.md R252, R271). -/

namespace Sys2Proof.Machine

/-- Settles O55: RESET leaves every slot in contract, and the machine starts in such a state. -/
theorem contractInvAtReset : Obligations.ContractInvAtReset := by
  unfold Obligations.ContractInvAtReset
  rw [← resetBlock_reset]
  obtain ⟨-, contract⟩ := (faultFree_iff _).1 (faultFree_resetBlock State.reset)
  exact contract

/-- After the same responses, RERR alone tells a refusal from an answer, whatever else the states hold (R97). -/
theorem answering_ne_of_rerr {s t : State} (responses : t.responses = s.responses) (words words' : List Word) :
    answering t false words ≠ answering s true words' := by
  intro same
  have last : t.responses ++ [⟨t.port, false, words⟩] = s.responses ++ [⟨s.port, true, words'⟩] :=
    congrArg State.responses same
  rw [responses] at last
  injection List.append_cancel_left last with response
  injection response with _ rerr
  cases rerr

/-- At CLOCK_RATE = 125,000,000 the count leaves 32 bits just above 68,719,476 microseconds (R142, R271). -/
theorem count_tooLarge_iff {cfg : Config} (hclock : cfg.clockRate = 125000000) (timeout : Word64) :
    2 ^ 32 ≤ maxCounterOf cfg timeout ↔ 68719476 < timeout.toNat := by
  rw [maxCounterOf_reference hclock]
  omega

/-- Settles O15: CONSTRUCT refuses exactly when the count does not fit (O14), and a count that fits is answered with
RERR clear. -/
theorem largestAcceptedTimeout : Obligations.LargestAcceptedTimeout := by
  intro s sid pin timeout ready absent hclock
  obtain ⟨-, -, ranged⟩ := constructResult s sid pin timeout ready.running ready.port
  obtain ⟨refused, accepted⟩ := ranged ready.exists_ absent
  rw [← count_tooLarge_iff hclock]
  refine ⟨fun answer => Nat.le_of_not_lt fun fits => ?_, refused⟩
  injection (accepted fits).symm.trans answer with same
  exact answering_ne_of_rerr (setSession_responses ..) _ _ same

end Sys2Proof.Machine
end
